-- ==== Sys2Proof/Word.lean ====
section
/-! DEFINITION. The words of the part: bytes, ticks, block numbers. Nothing here decides a behaviour. -/

namespace Sys2Proof

/-- A byte: a host register, a setup byte, a byte on tape. Bit 7 is the most significant (00_scope.md). -/
abbrev Byte := BitVec 8

/-- A 24-bit block number (R62). -/
abbrev BlockNo := BitVec 24

/-- A partition number, 0 to 3 (R69). -/
abbrev PartNo := BitVec 2

/-- The signed 24-bit tick counter (R86). -/
abbrev TickWord := BitVec 24

end Sys2Proof
end

