-- ==== Sys2Proof/Syntax.lean ====
section
/-! DEFINITION. The commands of the part: one constructor per row of spec/opcode_table.json, with the row's
operands. A command is one whole and indivisible step (95_what_each_step_holds.md). -/

namespace Sys2Proof

/-- How a Data Port access reaches the port (R12): by CS/ at address 0, or by a DACK/ strobe. -/
inductive BusPath where
  | cs
  | dack
  deriving DecidableEq, Repr

/-- One CS/ access at an address of the register window (R3, R4). -/
inductive HostAccess where
  | read (addr : BitVec 3)
  | write (addr : BitVec 3) (value : Byte)
  deriving DecidableEq, Repr

/-- The inputs of the Health Monitor (R145). -/
inductive HealthInput where
  | drvflt
  | wrflt
  | tensok
  | tempw
  | supok
  deriving DecidableEq, Repr

/-- A debounced level input other than SLP/ (R94, R95, R145). WPROT stands here because the table has no row of its own
for it, and CARTIN for the changes that its own two rows cannot carry (log 11); `bots` and `eots` are the marker levels
that stand after the change (log 9). -/
inductive LevelInput where
  | health (input : HealthInput)
  | wprot
  | cartin (bots : Bool) (eots : Bool)
  deriving DecidableEq, Repr

/-- What a sensor row reports (log 10): the debounced level has changed, or only the level on the pin, which the next
milliseconds sample (R94, R145). -/
inductive Change where
  | level
  | pin
  deriving DecidableEq, Repr

/-- An input that changes, how the change comes (log 10), and a host access at the same instant (R53, log 3). -/
structure InputChange where
  line : LevelInput
  how : Change
  host : Option HostAccess
  deriving DecidableEq, Repr

/-- How much of a link frame a command stands for (log 14): from select to deselect, from the select on, edges between,
or up to the deselect. -/
inductive FramePart where
  | whole
  | opening
  | middle
  | closing
  deriving DecidableEq, Repr

/-- What falls at the instant of a deselect besides a host access (R53, log 3): nothing, a change of an input, or a
capstan step with the marker levels after it and the header field that ends with it. -/
inductive Beside where
  | nothing
  | input (line : LevelInput) (how : Change) (high : Bool)
  | step (bots : Bool) (eots : Bool) (header : Option (BitVec 64))
  deriving DecidableEq, Repr

/-- What the supervisor shifts in besides the operation (R160): item index, parity bit, value, and how many
rising edges of LCLK the frame has had when the command ends. `late` holds the levels of LDI at the edges past the 24th
(low where it ends), and `clock` the level at which LCLK stands when the command ends (R159). `host` is a host access at
the instant of the deselect (R168), and `beside` what else falls there. -/
structure FrameBits where
  item : BitVec 5
  parity : Bool
  value : BitVec 16
  edges : Nat
  late : List Bool
  clock : Bool
  part : FramePart
  host : Option HostAccess
  beside : Beside
  deriving DecidableEq, Repr

/-- The marker levels that stand after a capstan step (log 9), and a host access at the instant of the step (log 3). -/
structure StepInput where
  bots : Bool
  eots : Bool
  host : Option HostAccess
  deriving DecidableEq, Repr

/-- The levels of the input pins, sampled at a power-on reset (R117, R145, R171). Each field is the level:
true is high. `cartin` and `wprot` true mean cartridge present and tab set; `bots` and `eots` true mean asserted. -/
structure Pins where
  cartin : Bool
  wprot : Bool
  bots : Bool
  eots : Bool
  drvflt : Bool
  wrflt : Bool
  tensok : Bool
  tempw : Bool
  supok : Bool
  slp : Bool
  deriving DecidableEq, Repr

/-- The commands, in the order of the table. -/
inductive Instr where
  /-- DATA_READ (R12). -/
  | dataRead (via : BusPath)
  /-- DATA_WRITE (R12). -/
  | dataWrite (via : BusPath) (value : Byte)
  /-- STROBE_CONFLICT (R3): RD/ and WR/ together, with the selects asserted and the address on A2-A0. -/
  | strobeConflict (cs : Bool) (dack : Bool) (addr : BitVec 3)
  /-- CS_DACK_CONFLICT (R14): a CS/ access with DACK/ asserted as well. -/
  | csDackConflict (access : HostAccess)
  /-- PARAM (R20). -/
  | param (value : Byte)
  /-- REPORT_READ (R47). -/
  | reportRead
  /-- ACKNOWLEDGE (R48). -/
  | acknowledge
  /-- REPORT_REWIND (R48). -/
  | reportRewind
  /-- INTERRUPT_ENABLE (R10). -/
  | interruptEnable (value : Byte)
  /-- FLAG_CLEAR (R7). -/
  | flagClear (value : Byte)
  /-- REGISTER_WRITE (R4): a write through the register window (log 16). -/
  | registerWrite (addr : BitVec 3) (value : Byte)
  /-- SETUP_DATA_READ (R18). -/
  | setupDataRead
  /-- SETUP_DATA_WRITE (R16). -/
  | setupDataWrite (value : Byte)
  /-- FAULT_CLEAR (R153). -/
  | faultClear (value : Byte)
  /-- MAP_ENTRY_COMMIT (R116). -/
  | mapEntryCommit (value : Byte)
  /-- MARK, order 01h (R32). -/
  | mark
  /-- CLEAR_MAP, order 02h (R32). -/
  | clearMap
  /-- LOAD, order 10h (R101). -/
  | load
  /-- UNLOAD, order 11h (R102). -/
  | unload
  /-- REWIND, order 12h (R103). -/
  | rewind
  /-- LOCATE, order 13h (R105). -/
  | locate
  /-- MOVE_RAW, order 14h (R104). -/
  | moveRaw
  /-- SPACE_BLOCKS, order 18h (R108). -/
  | spaceBlocks
  /-- SPACE_FENCES, order 19h (R111). -/
  | spaceFences
  /-- SEEK_END, order 1Ah (R112). -/
  | seekEnd
  /-- READ_BLOCKS, order 20h (R123). -/
  | readBlocks
  /-- VERIFY_BLOCKS, order 21h (R129). -/
  | verifyBlocks
  /-- WRITE_BLOCKS, order 28h (R131). -/
  | writeBlocks
  /-- WRITE_FENCES, order 29h (R138). -/
  | writeFences
  /-- ERASE_REMAINDER, order 2Ah (R139). -/
  | eraseRemainder
  /-- UNKNOWN_CODE (R21). -/
  | unknownCode (code : Byte)
  /-- HALT, order E1h (R38). -/
  | halt
  /-- EMERGENCY_STOP, order E2h (R39). -/
  | emergencyStop
  /-- DEVICE_RESET, order EAh (R40, R181). -/
  | deviceReset
  /-- ORDER_DEPARTURE (R28). -/
  | orderDeparture
  /-- CAPSTAN_STEP (R74), with what comes with the step, and the bits of the header field that ends with it, if one does
(R64, log 18). -/
  | capstanStep (input : StepInput) (header : Option (BitVec 64))
  /-- DWELL_EXPIRY (R82). -/
  | dwellExpiry
  /-- SETTLE_DELAY_EXPIRY (R77). -/
  | settleDelayExpiry
  /-- TACH_PULSE (R91). -/
  | tachPulse
  /-- STALL (R91). -/
  | stall
  /-- SEEK_EXHAUSTED (R88). -/
  | seekExhausted
  /-- GAP_LIMIT_REACHED (R106). -/
  | gapLimitReached
  /-- HEADER_EVENT (R64), with the 64 bits of the header field in the order in which they passed the head, the first
the most significant. The field ended with the last step, and its event comes after all else that the step brought. -/
  | headerEvent (bits : BitVec 64)
  /-- CAPTURE_RESULT (R65), with the data bytes and the trailer recovered. -/
  | captureResult (data : List Byte) (trailer : BitVec 32)
  /-- VERIFY_VERDICT (R134), with the level of VFYOK at the strobe. -/
  | verifyVerdict (good : Bool)
  /-- VERDICT_WINDOW_EXPIRY (R134). -/
  | verdictWindowExpiry
  /-- END_MARK_COMPLETE (R137). -/
  | endMarkComplete
  /-- REPOSITION_RESUME (R127). -/
  | repositionResume
  /-- WRITE_WAIT_END (R131). -/
  | writeWaitEnd
  /-- CARTRIDGE_INSERTED (R94), with the marker levels of the new tape (log 9). -/
  | cartridgeInserted (bots : Bool) (eots : Bool)
  /-- CARTRIDGE_REMOVED (R96). -/
  | cartridgeRemoved
  /-- HEALTH_INPUT_CHANGE (R145): the input that changes and its new level. -/
  | healthInputChange (input : InputChange) (high : Bool)
  /-- PEEK (R161). -/
  | peek (frame : FrameBits)
  /-- POKE (R163). -/
  | poke (frame : FrameBits)
  /-- PEEK_CLEAR (R166). -/
  | peekClear (frame : FrameBits)
  /-- PING (R160). -/
  | ping (frame : FrameBits)
  /-- STANDBY (R173). -/
  | standby
  /-- SLEEP_DEADLINE (R175). -/
  | sleepDeadline
  /-- FORCED_ENTRY (R176): the debounced SLP/ becomes low. -/
  | forcedEntry
  /-- WAKE (R178): the debounced SLP/ becomes high (log 12). -/
  | wake
  /-- HOST_PORT_ACTIVATION (R5). -/
  | hostPortActivation
  /-- POWER_ON (R179), with the levels sampled. -/
  | powerOn (pins : Pins)
  /-- RST_ASSERTION (R180). -/
  | rstAssertion
  /-- RST_RELEASE (R180). -/
  | rstRelease
  /-- DEFERRED_ENTRY (R174). -/
  | deferredEntry
  deriving DecidableEq, Repr

end Sys2Proof
end

