-- ==== Sys2Proof/Decode.lean ====
section
/-! DEFINITION. Reading a command from the table's bits. spec/opcode_table.json gives NO row any bits
(every "fields" is empty and none has a "fixed"), so no word spells a command and every word is refused (log 31).
The order codes of R25 are values of one ORDER write and are read by Sys2Proof.Machine.orderKind. -/

namespace Sys2Proof

/-- The command that the `nbits` low bits of `w` spell by the table: none, for the table gives no row bits. -/
def decodeTableWord (_nbits _w : Nat) : Option Instr := none

end Sys2Proof
end

