-- ==== Sys2Proof/Config.lean ====
section
/-! DEFINITION. What the spec fixes for every part, and the one value it leaves open. -/

namespace Sys2Proof.Config

/-- The part code (R1). -/
def partCode : BitVec 16 := 0x7201

/-- Places in the Order Queue (R22). -/
def queuePlaces : Nat := 4

/-- Places in the Report Queue (R49, R50). -/
def reportPlaces : Nat := 6

/-- Reports that may stand when an order departs (R27, condition b). -/
def departReports : Nat := 4

/-- Places in the parameter staging (R20). -/
def stagingPlaces : Nat := 8

/-- Entries of the Locator Map (R113). -/
def mapPlaces : Nat := 24

/-- Milliseconds after a wake until the Host Port is active (R5, R178). -/
def portWaitMs : Nat := 2

/-- Milliseconds in one unit of STANDBY DELAY and SLEEP DEADLINE (R184). -/
def delayUnitMs : Nat := 100

/-- Ticks of a gap (R60). -/
def gapTicks : Nat := 24

/-- Ticks from a block's origin to the end of its header field (R60). -/
def headerEndTicks : Nat := 36

/-- Ticks of a header field (R60). -/
def headerTicks : Nat := 12

/-- Ticks of a trailer (R60). -/
def trailerTicks : Nat := 4

/-- Footprint of an END mark, which every fit check reserves (R60, R133). -/
def endTicks : Nat := 40

/-- Tolerance of the append confirmation, in ticks (R131). -/
def confirmTicks : Nat := 4

/-- DESIGN CHOICE (log 6), safe. Bound on the consequences carried out inside one command: the longest chain the
rules allow (four waiting orders, each starting and ending at once) is far shorter. -/
def settleFuel : Nat := 64

/-- FREE VALUE (log 17): the number that follows block 16,777,215. The spec holds block numbers in 24 bits (R97)
and states no sum beyond them. No body, so nothing can be proved of it. -/
opaque blockAfterLast : BlockNo

end Sys2Proof.Config
end

