-- ==== Sys2Proof/Machine/State.lean ====
section
/-! DEFINITION. The state of the part as plain data, the reasons a step can stop, and the state after reset. -/

namespace Sys2Proof.Machine

/-- Reasons the machine stops with a fault. There are none: the spec gives every command an effect in every state,
and the part's own faults (R146) are state. Nobody raises one. -/
inductive Fault where
  deriving DecidableEq, Repr

/-- Reasons the model refuses a command. -/
inductive Refusal where
  /-- Raised by exec's arm of a command without a meaning; no arm raises it. Safe: the run stops. -/
  | notModelled (mnemonic : String)
  deriving DecidableEq, Repr

/-! ### Names -/

/-- A direction of travel (R82). -/
inductive Dir where
  | forward
  | reverse
  deriving DecidableEq, Repr

/-- The queued orders the part knows (R25). -/
inductive OrderKind where
  | mark
  | clearMap
  | load
  | unload
  | rewind
  | locate
  | moveRaw
  | spaceBlocks
  | spaceFences
  | seekEnd
  | readBlocks
  | verifyBlocks
  | writeBlocks
  | writeFences
  | eraseRemainder
  deriving DecidableEq, Repr

/-- The common scale of R36. -/
inductive Stage where
  | startChecks
  | reference
  | travel
  | scan
  | settle
  | done
  deriving DecidableEq, Repr

/-- The causes of R51. -/
inductive Cause where
  | success
  | fence
  | endOfData
  | sequenceBreak
  | blank
  | notFound
  | boundary
  | partitionFull
  | readError
  | writeFailed
  | positionLost
  | loadFailed
  | illegalOrder
  | illegalState
  | paramError
  | profileInvalid
  | partitionInvalid
  | writeProtected
  | halted
  | emergencyStopped
  | lockedOut
  | fault
  | mediumRemoved
  | powerOn
  | pinReset
  | deviceReset
  | wake
  | cartridgeInserted
  | cartridgeRemoved
  | faultOnset
  | lockoutSet
  | lockoutCleared
  deriving DecidableEq, Repr

/-- The cartridge states of R94. -/
inductive CartState where
  | empty
  | inserted
  | loading
  | loaded
  deriving DecidableEq, Repr

/-- The block kinds of R67. -/
inductive BlockKind where
  | data
  | fence
  | endMark
  deriving DecidableEq, Repr

/-- Where a map entry came from (R113). -/
inductive MapSource where
  | learned
  | host
  deriving DecidableEq, Repr

/-- The two staging banks (R118). -/
inductive BankId where
  | a
  | b
  deriving DecidableEq, Repr

/-- The bank states of R118. -/
inductive BankState where
  | empty
  | filling
  | fullWrite
  | onTape
  | capturing
  | fullRead
  | draining
  deriving DecidableEq, Repr

/-- The motion states of R76. -/
inductive MotionState where
  | stopped
  | dwell
  | accelerating
  | cruising
  | decelerating
  | inhibited
  deriving DecidableEq, Repr

/-- What a deceleration is for (R78 to R81). -/
inductive Decel where
  | none
  | toRate
  | planned
  | unplanned
  deriving DecidableEq, Repr

/-- The phases of a zeroing seek (R88): running forward off the marker, running in reverse to it, stopping. -/
inductive SeekPhase where
  | none
  | offMarker
  | seeking
  | ended
  deriving DecidableEq, Repr

/-- The reasons of a boundary event (R92). -/
inductive BoundaryReason where
  | bot
  | eot
  | leaderLimit
  | lengthLimit
  | seekExhausted
  deriving DecidableEq, Repr

/-- The power states of R171. -/
inductive PowerState where
  | active
  | standby
  | sleepPending
  | sleep
  deriving DecidableEq, Repr

/-- Where the active order stands in its own work. -/
inductive Phase where
  /-- The zeroing seek of stage 1 (R101 to R105). -/
  | seek
  /-- The coarse move of stage 2 (R101, R103 to R105, R109). -/
  | travel
  /-- Step 1 of the approach (R99). -/
  | approach
  /-- The wait at rest for a FULL WRITE bank (R131). -/
  | waitBank
  /-- The forward scan or the stream of stage 3 (R106, R107, R123). -/
  | scan
  /-- The reverse scan (R109). -/
  | scanBack
  /-- The stage-3 run before the append point is confirmed (R131). -/
  | confirm
  /-- The writer is recording or awaiting a verdict (R133 to R137). -/
  | write
  /-- The erase run of R139 step 4. -/
  | erase
  /-- Step 1 of a reposition cycle (R127). -/
  | repStop
  /-- Step 2 of a reposition cycle. -/
  | repMove
  /-- Step 3 of a reposition cycle: the wait at rest. -/
  | repWait
  /-- The stop after a completed reading order, which still notes later copies (R125). -/
  | complete
  /-- The stop after an own condition of an order that then moves to its final tick (R99, R139). -/
  | stopping
  /-- The move to the final tick (R99, R139). -/
  | park
  /-- A stop at whose rest the order ends (R100, R123, R130, R137, R140, R142). -/
  | ending
  deriving DecidableEq, Repr

/-- What a reposition cycle waits for at rest (R127). -/
inductive Resume where
  | atOnce
  | emptyBank
  | fullWriteBank
  deriving DecidableEq, Repr

/-- What the END being recorded is for (R136, R137, R139). -/
inductive EndUse where
  | finish
  | starve
  | erase
  deriving DecidableEq, Repr

/-! ### Setup Space -/

/-- One record of the partition table (R69, R185). -/
structure PartRecord where
  start : BitVec 24
  length : BitVec 24
  enabled : Bool
  deriving DecidableEq, Repr

/-- The partition table (R69). -/
structure PartTable where
  p0 : PartRecord
  p1 : PartRecord
  p2 : PartRecord
  p3 : PartRecord
  deriving DecidableEq, Repr

/-- The writable setup items (R184, R185). An order's snapshot (R31) is a copy of it. -/
structure Setup where
  clockRate : Byte
  dataPath : Byte
  startRate : Byte
  streamRate : Byte
  searchRate : Byte
  accel : Byte
  decel : Byte
  reversalDwell : Byte
  settleDelay : Byte
  stallWindow : Byte
  approachMargin : BitVec 16
  gapLimit : BitVec 16
  earlyWarning : BitVec 24
  maxTape : BitVec 24
  readRetry : Byte
  rewriteLimit : Byte
  repositionLimit : Byte
  landmarkSpacing : Byte
  standbyDelay : Byte
  sleepDeadline : Byte
  mapSelect : Byte
  parts : PartTable
  deriving DecidableEq, Repr

/-! ### The blocks -/

/-- The Host Port's own registers (R7, R10, R15 to R18) and the byte last driven on D7-D0 (log 2). -/
structure HostPort where
  intEnable : BitVec 2
  setupIndex : Byte
  dataError : Bool
  setupError : Bool
  orderRejected : Bool
  paramOverflow : Bool
  lastSetupError : Byte
  shadow : List (Byte × Byte)
  snaps : List (Byte × Nat)
  dataOut : Byte
  deriving DecidableEq, Repr

/-- A KNOWN logical position (R97). -/
structure Position where
  part : PartNo
  next : BlockNo
  slot : Int
  eod : Bool
  deriving DecidableEq, Repr

/-- An entry of the Order Queue (R22). -/
structure QueueEntry where
  tag : BitVec 4
  code : Byte
  params : List Byte
  deriving DecidableEq, Repr

/-- A cause that has arisen for the active order, with the stage in which it arose (R52). -/
structure CauseAt where
  cause : Cause
  stage : Stage
  deriving DecidableEq, Repr

/-- An END decoded during the order (R114, fifth condition). -/
structure EndSeen where
  part : PartNo
  origin : Int
  deriving DecidableEq, Repr

/-- The scan of a positioning order (R105 to R112). -/
structure Scan where
  /-- The tick from which headers count (R105), or the slot origin (R107, R109). -/
  origin : Int
  /-- The expected block (R72), or the lowest number taken (R109). -/
  number : BlockNo
  /-- The block sought: N of LOCATE, T of SPACE BLOCKS; the target tick of MOVE RAW (R104 to R110). -/
  target : Int
  /-- The scan's landmark (R106, R107, R109). -/
  landmark : Option Position
  /-- Fences counted (R111). -/
  fences : Nat
  /-- Whether `number` has been taken in this reverse scan (R109). -/
  taken : Bool
  /-- Derived origin of the earliest copy of `number` (R109). -/
  earliest : Int
  /-- Whether the final block is fixed; it is `number` then (R109). -/
  fixed : Bool
  /-- ENDs decoded during the order (R114). -/
  ends : List EndSeen
  deriving DecidableEq, Repr

/-- The running counts of a streaming order (R44, R118, R123 to R140). -/
structure Stream where
  /-- Blocks or fences done (R124, R135). -/
  done : Nat
  /-- Retry count of the expected block (R128). -/
  retry : Nat
  /-- A copy of the expected block has been seen (R124). -/
  copySeen : Bool
  /-- The report's Retries field before saturation (R44). -/
  retries : Nat
  /-- The RECOVERED mark (R44). -/
  recovered : Bool
  /-- Rewrite count of the block being written (R135). -/
  rewrites : Nat
  /-- Consecutive confirmation failures (R132). -/
  confFails : Nat
  /-- The EARLY WARNING mark (R133). -/
  warning : Bool
  /-- Something has been recorded by this order (R71, R133). -/
  recorded : Bool
  /-- The tick at which a header seen confirms the append point (R131). -/
  confirmAt : Option Int
  /-- The append slot (R131, R136). -/
  slot : Int
  /-- What the END under way is for (R137). -/
  endUse : EndUse
  /-- What the reposition cycle waits for (R127). -/
  resume : Resume
  deriving DecidableEq, Repr

/-- The active order (R28): its entry, its setup snapshot and its progress. -/
structure Active where
  entry : QueueEntry
  snap : Setup
  phase : Phase
  stage : Stage
  cause : Option CauseAt
  /-- LOCKED OUT has reached the order (R156). -/
  lockPending : Bool
  /-- The partition the order works in (R30). -/
  part : PartNo
  /-- The position at departure (R97, R105). -/
  departed : Option Position
  /-- The final position an ending gives, where it gives one (R97). -/
  final : Option (Option Position)
  /-- The gap count (R106, R123). -/
  gap : Nat
  scan : Scan
  stream : Stream
  deriving DecidableEq, Repr

/-- The Order Sequencer's own state (chapter 2). -/
structure Sequencer where
  staging : List Byte
  queue : List QueueEntry
  active : Option Active
  tag : BitVec 4
  haltPending : Bool
  deriving DecidableEq, Repr

/-- A report record (R42). -/
structure Report where
  unsolicited : Bool
  stage : Stage
  tag : BitVec 4
  code : Byte
  cause : Cause
  recovered : Bool
  warning : Bool
  known : Bool
  lost : Bool
  dataPending : Bool
  part : PartNo
  faultRecorded : Bool
  residual : BitVec 16
  retries : BitVec 4
  discarded : BitVec 4
  next : BlockNo
  deriving DecidableEq, Repr

/-- The Report Queue (chapter 3). `readIndex` 10 stands past the end (R47). -/
structure Reports where
  stored : List Report
  readIndex : Nat
  overflow : BitVec 8
  lastCause : Cause
  lastTag : BitVec 4
  deriving DecidableEq, Repr

/-- A staging bank with its descriptor (R118). -/
structure Bank where
  state : BankState
  data : List Byte
  part : PartNo
  number : BlockNo
  kind : BlockKind
  copy : BitVec 3
  length : Nat
  owner : BitVec 4
  moved : Nat
  age : Nat
  deriving DecidableEq, Repr

/-- The two banks, the claim record and the streaming counters (R118, R143). -/
structure Banks where
  a : Bank
  b : Bank
  lastClaim : Option BankId
  nextAge : Nat
  repositions : BitVec 16
  retries : BitVec 16
  deriving DecidableEq, Repr

/-- A motion request (R83, R88). -/
inductive Request where
  | moveTo (target : Int) (rate : Nat)
  | run (dir : Dir) (rate : Nat)
  | seek (rate : Nat)
  deriving DecidableEq, Repr

/-- The Capstan Motion Controller (chapter 5). -/
structure Motion where
  state : MotionState
  rate : Nat
  request : Option Request
  waiting : Option Request
  ramp : Nat
  decel : Decel
  lastDir : Option Dir
  dir : Dir
  dwellTimer : Nat
  settling : Bool
  settleTimer : Nat
  tick : TickWord
  refValid : Bool
  seek : SeekPhase
  seekSteps : Nat
  sensed : Bool
  bounded : Bool
  stallCount : Nat
  lastOvershoot : BitVec 16
  overshoot : Nat
  steady : Nat
  run : Nat
  deriving DecidableEq, Repr

/-- The events of R92, the stall of R91, the step itself, the start of a pending request at an intermediate rest (R83), and
the ending of an order that was cut short (R39, R96, R150), all taken in the order they are handed (log 6). -/
inductive MotionEvent where
  | zeroed
  | atRate (rate : Nat)
  | boundary (reason : BoundaryReason)
  | stall
  | stepped
  | restart
  | stoppedAt (tick : TickWord) (overshoot : Nat) (held : Bool)
  | orderEnds
  deriving DecidableEq, Repr

/-- The six content bytes of a header (R62). -/
structure HeaderContent where
  b0 : Byte
  b1 : Byte
  b2 : Byte
  b3 : Byte
  b4 : Byte
  b5 : Byte
  deriving DecidableEq, Repr

/-- The place of a header field that the head has passed whole (R64): the direction of travel, the tick counter after
the field's last step forward, before it in reverse, and the field's bits where they came with that step (log 18). -/
structure FieldPlace where
  dir : Dir
  tick : TickWord
  bits : Option (BitVec 64)
  deriving DecidableEq, Repr

/-- An armed capture (R65, R124). -/
structure Capture where
  bank : Option BankId
  origin : Int
  lengthCode : BitVec 2
  deriving DecidableEq, Repr

/-- A block or END being recorded (R61, R133, R137). -/
structure Recording where
  kind : BlockKind
  origin : Int
  part : PartNo
  number : BlockNo
  lengthCode : BitVec 2
  copy : BitVec 3
  bank : Option BankId
  deriving DecidableEq, Repr

/-- The writer (R61, R134, R139). -/
inductive Writer where
  | idle
  | recording (block : Recording)
  | verdict (block : Recording)
  | erasing
  deriving DecidableEq, Repr

/-- The Tape Framer (chapter 4). `field` is the place at which a header field would end with the step just made. -/
structure Framer where
  field : Option FieldPlace
  capture : Option Capture
  writer : Writer
  gate : Bool
  headerCrc : BitVec 16
  dataCrc : BitVec 32
  lastHeader : HeaderContent
  fieldBytes : List Byte
  deriving DecidableEq, Repr

/-- An entry of the Locator Map (R113). -/
structure MapEntry where
  part : PartNo
  number : BlockNo
  origin : TickWord
  source : MapSource
  stamp : Nat
  deriving DecidableEq, Repr

/-- The cartridge, the logical position and the Locator Map (chapter 6). -/
structure Place where
  cart : CartState
  wpLatch : Bool
  position : Option Position
  map : List MapEntry
  mapClock : Nat
  deriving DecidableEq, Repr

/-- The Health Monitor (chapter 8). Bits as in R146 and R155. -/
structure Health where
  present : BitVec 6
  recorded : BitVec 6
  mask : BitVec 6
  control : BitVec 4
  powerOnFlag : Bool
  deriving DecidableEq, Repr

/-- A debounced input: the level on the pin, the last sample, the debounced level (R94, R145, R171). -/
structure Sense where
  pin : Bool
  last : Bool
  level : Bool
  deriving DecidableEq, Repr

/-- The input pins. -/
structure Inputs where
  cartin : Sense
  wprot : Sense
  drvflt : Sense
  wrflt : Sense
  tensok : Sense
  tempw : Sense
  supok : Sense
  slp : Sense
  bots : Bool
  eots : Bool
  rstLow : Bool
  deriving DecidableEq, Repr

/-- A captured pair value (R167). -/
inductive PairCapture where
  | tick (value : TickWord)
  | block (next : BlockNo) (part : PartNo) (known : Bool)
  deriving DecidableEq, Repr

/-- The BLOCK pair snapshot (R167). -/
structure BlockPair where
  next : BlockNo
  part : PartNo
  known : Bool
  deriving DecidableEq, Repr

/-- The registers of the frame in progress, or of the last one (R159, R161, R167). `selected` says that LSEL/ is low, and
`clock` that LCLK is high since the frame's last rising edge. -/
structure FrameRegs where
  selected : Bool
  shiftIn : BitVec 24
  edges : Nat
  clock : Bool
  summary : Byte
  snapshot : BitVec 16
  pair : Option PairCapture
  deriving DecidableEq, Repr

/-- The Maintenance Link (chapter 9). -/
structure Link where
  error : Bool
  errorCount : BitVec 8
  tickPair : Option TickWord
  blockPair : Option BlockPair
  sleepReq : Bool
  frame : FrameRegs
  deriving DecidableEq, Repr

/-- The Power Manager (chapter 10) and the Host Port's wait after a wake (R5). -/
structure Power where
  state : PowerState
  standbyTimer : Nat
  deadlineTimer : Nat
  lost : Nat
  lostActive : Bool
  portWait : Nat
  rstFromSleep : Bool
  deriving DecidableEq, Repr

/-- The whole part. `pending` is the queue of waiting commands and `events` the motion events handed and not yet
taken (log 6). -/
structure State where
  pending : List Instr
  host : HostPort
  setup : Setup
  seq : Sequencer
  reports : Reports
  banks : Banks
  motion : Motion
  events : List MotionEvent
  framer : Framer
  place : Place
  health : Health
  inputs : Inputs
  link : Link
  power : Power
  deriving DecidableEq, Repr

/-! ### The state after reset (R179, with the pins of log 1) -/

/-- R185: records 1 to 3 are zero, disabled. -/
def PartRecord.blank : PartRecord := { start := 0, length := 0, enabled := false }

/-- The defaults of R184 and R185. -/
def Setup.defaults : Setup where
  clockRate := 16
  dataPath := 0
  startRate := 4
  streamRate := 20
  searchRate := 48
  accel := 6
  decel := 4
  reversalDwell := 20
  settleDelay := 50
  stallWindow := 32
  approachMargin := 600
  gapLimit := 2000
  earlyWarning := 4000
  maxTape := 7500000
  readRetry := 3
  rewriteLimit := 3
  repositionLimit := 4
  landmarkSpacing := 32
  standbyDelay := 50
  sleepDeadline := 100
  mapSelect := 0
  parts :=
    { p0 := { start := 1000, length := 7000000, enabled := true }
      p1 := .blank
      p2 := .blank
      p3 := .blank }

/-- The Host Port's state after every kind of reset (R19). -/
def HostPort.afterReset : HostPort where
  intEnable := 0
  setupIndex := 0
  dataError := false
  setupError := false
  orderRejected := false
  paramOverflow := false
  lastSetupError := 0
  shadow := []
  snaps := []
  dataOut := 0

/-- The Order Sequencer's state after every kind of reset (R41). -/
def Sequencer.afterReset : Sequencer where
  staging := []
  queue := []
  active := none
  tag := 0
  haltPending := false

/-- A bank that is EMPTY with its descriptor cleared (R118, R144). -/
def Bank.cleared : Bank where
  state := .empty
  data := []
  part := 0
  number := 0
  kind := .data
  copy := 0
  length := 0
  owner := 0
  moved := 0
  age := 0

/-- The streaming state after every kind of reset (R144). -/
def Banks.afterReset : Banks where
  a := .cleared
  b := .cleared
  lastClaim := none
  nextAge := 0
  repositions := 0
  retries := 0

/-- The motion state after a power-on reset without an inhibit (R93). -/
def Motion.afterPowerOn : Motion where
  state := .stopped
  rate := 0
  request := none
  waiting := none
  ramp := 0
  decel := .none
  lastDir := none
  dir := .forward
  dwellTimer := 0
  settling := false
  settleTimer := 0
  tick := 0
  refValid := false
  seek := .none
  seekSteps := 0
  sensed := false
  bounded := false
  stallCount := 0
  lastOvershoot := 0
  overshoot := 0
  steady := 0
  run := 0

/-- Six bytes of 00h (R66). -/
def HeaderContent.zero : HeaderContent where
  b0 := 0
  b1 := 0
  b2 := 0
  b3 := 0
  b4 := 0
  b5 := 0

/-- The Tape Framer after every kind of reset (R73). -/
def Framer.afterReset : Framer where
  field := none
  capture := none
  writer := .idle
  gate := false
  headerCrc := 0xFFFF
  dataCrc := 0xFFFFFFFF
  lastHeader := .zero
  fieldBytes := []

/-- The report that a power-on reset leaves when nothing is recorded (R54). -/
def Report.powerOnClean : Report where
  unsolicited := true
  stage := .startChecks
  tag := 0
  code := 0
  cause := .powerOn
  recovered := false
  warning := false
  known := false
  lost := false
  dataPending := false
  part := 0
  faultRecorded := false
  residual := 0
  retries := 0
  discarded := 0
  next := 0

/-- A level loaded from a single sample (R145, R171). -/
def Sense.sampled (level : Bool) : Sense where
  pin := level
  last := level
  level := level

/-- The pins of log 1: no cartridge, every health input good, SLP/ released. -/
def quietPins : Pins where
  cartin := false
  wprot := false
  bots := false
  eots := false
  drvflt := true
  wrflt := true
  tensok := true
  tempw := false
  supok := true
  slp := true

/-- The inputs as a power-on reset samples them, RST/ high. -/
def Inputs.sampled (pins : Pins) : Inputs where
  cartin := .sampled pins.cartin
  wprot := .sampled pins.wprot
  drvflt := .sampled pins.drvflt
  wrflt := { pin := pins.wrflt, last := true, level := true }
  tensok := .sampled pins.tensok
  tempw := .sampled pins.tempw
  supok := .sampled pins.supok
  slp := .sampled pins.slp
  bots := pins.bots
  eots := pins.eots
  rstLow := false

/-- The frame registers before any frame (log 2). -/
def FrameRegs.blank : FrameRegs where
  selected := false
  shiftIn := 0
  edges := 0
  clock := false
  summary := 0
  snapshot := 0
  pair := none

/-- The Maintenance Link after a power-on reset (R170). -/
def Link.afterPowerOn : Link where
  error := false
  errorCount := 0
  tickPair := none
  blockPair := none
  sleepReq := false
  frame := .blank

/-- The Power Manager after a power-on reset (R179). -/
def Power.afterPowerOn : Power where
  state := .active
  standbyTimer := 0
  deadlineTimer := 0
  lost := 0
  lostActive := false
  portWait := 0
  rstFromSleep := false

/-- The machine right after reset: the power-on reset of R179 with the pins of log 1, no command waiting. -/
def State.reset : State where
  pending := []
  host := .afterReset
  setup := .defaults
  seq := .afterReset
  reports :=
    { stored := [.powerOnClean], readIndex := 0, overflow := 0, lastCause := .powerOn, lastTag := 0 }
  banks := .afterReset
  motion := .afterPowerOn
  events := []
  framer := .afterReset
  place := { cart := .empty, wpLatch := false, position := none, map := [], mapClock := 0 }
  health := { present := 0, recorded := 0, mask := 0, control := 0, powerOnFlag := true }
  inputs := .sampled quietPins
  link := .afterPowerOn
  power := .afterPowerOn

end Sys2Proof.Machine
end

