-- ==== Sys2Proof/Machine/Codec.lean ====
section
/-! DEFINITION. The recorded format: block geometry, the two check codes, the header's fields (chapter 4). -/

namespace Sys2Proof.Machine

/-- R60: the data length in bytes that a length code fixes. -/
def dataLength (code : BitVec 2) : Nat := 256 * 2 ^ code.toNat

/-- R60: the footprint of a block in ticks. FENCE and END have no data field. -/
def footprint (kind : BlockKind) (code : BitVec 2) : Nat :=
  match kind with
  | .data => Config.headerEndTicks + dataLength code / 8 + Config.trailerTicks
  | .fence => Config.endTicks
  | .endMark => Config.endTicks

/-- R63: one bit into the header check register. -/
def crc16Bit (reg : BitVec 16) (bit : Bool) : BitVec 16 :=
  if reg.msb != bit then (reg <<< 1) ^^^ 0x8BB7 else reg <<< 1

/-- R65: one bit into the data check register. -/
def crc32Bit (reg : BitVec 32) (bit : Bool) : BitVec 32 :=
  if reg.msb != bit then (reg <<< 1) ^^^ 0x04C11DB7 else reg <<< 1

/-- The bits of a byte, bit 7 first (R61). -/
def byteBits (v : Byte) : List Bool :=
  [v.getLsbD 7, v.getLsbD 6, v.getLsbD 5, v.getLsbD 4, v.getLsbD 3, v.getLsbD 2, v.getLsbD 1, v.getLsbD 0]

/-- R63: one byte, most significant bit first. -/
def crc16Byte (reg : BitVec 16) (v : Byte) : BitVec 16 := (byteBits v).foldl crc16Bit reg

/-- R65: one byte, most significant bit first. -/
def crc32Byte (reg : BitVec 32) (v : Byte) : BitVec 32 := (byteBits v).foldl crc32Bit reg

/-- R63: the header check over content bytes 0 to 5, preset FFFFh, no inversion. -/
def headerCheck (c : HeaderContent) : BitVec 16 :=
  [c.b0, c.b1, c.b2, c.b3, c.b4, c.b5].foldl crc16Byte 0xFFFF

/-- R65: the register of the data check before the final inversion. -/
def dataCrcReg (data : List Byte) : BitVec 32 := data.foldl crc32Byte 0xFFFFFFFF

/-- R65: the data check, every bit inverted after the last byte. -/
def dataCheck (data : List Byte) : BitVec 32 := ~~~ (dataCrcReg data)

/-- R62: the Kind bits. -/
def HeaderContent.kindBits (c : HeaderContent) : BitVec 2 := c.b0.extractLsb' 6 2

/-- R62: the kind; Kind 3 is none. -/
def HeaderContent.kind (c : HeaderContent) : Option BlockKind :=
  match c.kindBits.toNat with
  | 0 => some .data
  | 1 => some .fence
  | 2 => some .endMark
  | _ => none

/-- R62: the Partition field. -/
def HeaderContent.part (c : HeaderContent) : PartNo := c.b0.extractLsb' 4 2

/-- R62: the length code. -/
def HeaderContent.lengthCode (c : HeaderContent) : BitVec 2 := c.b0.extractLsb' 2 2

/-- R62: the copy number. -/
def HeaderContent.copy (c : HeaderContent) : BitVec 3 := c.b1.extractLsb' 0 3

/-- R62: the block number, least significant byte in byte 2. -/
def HeaderContent.number (c : HeaderContent) : BlockNo := c.b4 ++ c.b3 ++ c.b2

/-- R64: every zero field of R62 reads 0. -/
def HeaderContent.zerosOk (c : HeaderContent) : Bool :=
  c.b0.extractLsb' 0 2 == 0#2 && c.b1.extractLsb' 3 5 == 0#5 && c.b5 == 0#8

/-- The eight bytes of a header field in forward order (R61 to R63): six content bytes and the two check bytes. -/
structure HeaderField where
  b0 : Byte
  b1 : Byte
  b2 : Byte
  b3 : Byte
  b4 : Byte
  b5 : Byte
  check : BitVec 16
  deriving DecidableEq, Repr

/-- R61, R63: the bytes of a header field whose 64 bits stand in forward order, bit 7 of each byte first. -/
def fieldOf (bits : BitVec 64) : HeaderField where
  b0 := bits.extractLsb' 56 8
  b1 := bits.extractLsb' 48 8
  b2 := bits.extractLsb' 40 8
  b3 := bits.extractLsb' 32 8
  b4 := bits.extractLsb' 24 8
  b5 := bits.extractLsb' 16 8
  check := bits.extractLsb' 0 16

/-- R63: the forward order restored: a header read in reverse arrives with its bytes and bits in reverse order. -/
def recovered (dir : Dir) (bits : BitVec 64) : HeaderField :=
  match dir with
  | .forward => fieldOf bits
  | .reverse => fieldOf bits.reverse

/-- The content bytes of a header field. -/
def fieldContent (f : HeaderField) : HeaderContent :=
  { b0 := f.b0, b1 := f.b1, b2 := f.b2, b3 := f.b3, b4 := f.b4, b5 := f.b5 }

/-- A decoded good header (R64): the content read as fields, with the derived origin. -/
structure Header where
  kind : BlockKind
  part : PartNo
  lengthCode : BitVec 2
  copy : BitVec 3
  number : BlockNo
  origin : Int
  deriving DecidableEq, Repr

/-- R64: the derived end of the header's block. -/
def Header.blockEnd (h : Header) : Int := h.origin + footprint h.kind h.lengthCode

/-- R64: a good header, or none for a bad one: the check passes, Kind is not 3, FENCE and END carry length code 0,
zero fields read 0. -/
def goodHeader (f : HeaderField) (origin : Int) : Option Header :=
  let c := fieldContent f
  match c.kind with
  | none => none
  | some kind =>
    if headerCheck c == f.check && (kind == .data || c.lengthCode == 0#2) && c.zerosOk then
      some { kind, part := c.part, lengthCode := c.lengthCode, copy := c.copy, number := c.number, origin }
    else none

/-- R62: the Kind bits that a kind is recorded with. -/
def kindCode : BlockKind → BitVec 2
  | .data => 0
  | .fence => 1
  | .endMark => 2

/-- R62: the content bytes that the Framer records for a block. -/
def recordedContent (r : Recording) : HeaderContent where
  b0 := kindCode r.kind ++ r.part ++ r.lengthCode ++ 0#2
  b1 := 0#5 ++ r.copy
  b2 := r.number.extractLsb' 0 8
  b3 := r.number.extractLsb' 8 8
  b4 := r.number.extractLsb' 16 8
  b5 := 0

/-- R61 to R63: the eight header bytes on tape, check bits 15-8 first. -/
def headerBytes (c : HeaderContent) : List Byte :=
  let check := headerCheck c
  [c.b0, c.b1, c.b2, c.b3, c.b4, c.b5, check.extractLsb' 8 8, check.extractLsb' 0 8]

/-- R61: the four trailer bytes, most significant first. -/
def trailerBytes (check : BitVec 32) : List Byte :=
  [check.extractLsb' 24 8, check.extractLsb' 16 8, check.extractLsb' 8 8, check.extractLsb' 0 8]

/-- R68, R97: the number that follows a block number; beyond the last 24-bit number it is the free value of log 17. -/
def nextNumber (n : BlockNo) : BlockNo :=
  if n = BitVec.allOnes 24 then Config.blockAfterLast else n + 1

end Sys2Proof.Machine
end

