-- ==== Sys2Proof/Machine/Operands.lean ====
section
/-! DEFINITION. Order codes, parameter bytes and partition bounds (chapter 2, R25, R26; R69, R70, R75). -/

namespace Sys2Proof.Machine

/-- R25: the queued order a code stands for; none for an unknown code. -/
def orderKind (code : Byte) : Option OrderKind :=
  match code.toNat with
  | 0x01 => some .mark
  | 0x02 => some .clearMap
  | 0x10 => some .load
  | 0x11 => some .unload
  | 0x12 => some .rewind
  | 0x13 => some .locate
  | 0x14 => some .moveRaw
  | 0x18 => some .spaceBlocks
  | 0x19 => some .spaceFences
  | 0x1A => some .seekEnd
  | 0x20 => some .readBlocks
  | 0x21 => some .verifyBlocks
  | 0x28 => some .writeBlocks
  | 0x29 => some .writeFences
  | 0x2A => some .eraseRemainder
  | _ => none

/-- R25: the parameter byte count of an order. -/
def OrderKind.paramCount : OrderKind → Nat
  | .mark => 0
  | .clearMap => 0
  | .load => 0
  | .unload => 0
  | .rewind => 1
  | .locate => 4
  | .moveRaw => 3
  | .spaceBlocks => 2
  | .spaceFences => 2
  | .seekEnd => 0
  | .readBlocks => 1
  | .verifyBlocks => 1
  | .writeBlocks => 2
  | .writeFences => 1
  | .eraseRemainder => 0

/-- R25: motion orders are the known codes other than 01h and 02h. -/
def OrderKind.isMotion : OrderKind → Bool
  | .mark => false
  | .clearMap => false
  | _ => true

/-- R25: write-class orders. -/
def OrderKind.isWrite : OrderKind → Bool
  | .writeBlocks => true
  | .writeFences => true
  | .eraseRemainder => true
  | _ => false

/-- The reading orders (chapter 7). -/
def OrderKind.isRead : OrderKind → Bool
  | .readBlocks => true
  | .verifyBlocks => true
  | _ => false

/-- The streaming orders (chapter 7), whose position runs with them (R123, R131). -/
def OrderKind.isStream (k : OrderKind) : Bool := k.isRead || k.isWrite

/-- R25: orders that use partition bounds. -/
def OrderKind.usesBounds : OrderKind → Bool
  | .mark => false
  | .clearMap => false
  | .unload => false
  | .moveRaw => false
  | _ => true

/-- R30: orders that check 3 requires LOADED and KNOWN for. -/
def OrderKind.needsKnown : OrderKind → Bool
  | .spaceBlocks => true
  | .spaceFences => true
  | .seekEnd => true
  | .readBlocks => true
  | .verifyBlocks => true
  | .writeBlocks => true
  | .writeFences => true
  | .eraseRemainder => true
  | _ => false

/-- R114: orders whose headers teach the map. -/
def OrderKind.learns : OrderKind → Bool
  | .locate => true
  | .spaceBlocks => true
  | .spaceFences => true
  | .seekEnd => true
  | .readBlocks => true
  | .verifyBlocks => true
  | _ => false

/-- Parameter byte k of an order, byte 0 being the first written (R26). -/
def paramByte (params : List Byte) (k : Nat) : Byte := params.getD k 0

/-- R26: the partition named by byte 0 of REWIND and LOCATE. -/
def paramPart (params : List Byte) : PartNo := (paramByte params 0).extractLsb' 0 2

/-- R26: the block number of LOCATE, bytes 1 to 3, little-endian. -/
def paramBlock (params : List Byte) : BlockNo := paramByte params 3 ++ paramByte params 2 ++ paramByte params 1

/-- R26: the signed 24-bit tick count of MOVE RAW. -/
def paramTicks (params : List Byte) : Int :=
  (paramByte params 2 ++ paramByte params 1 ++ paramByte params 0 : BitVec 24).toInt

/-- R26: the signed 16-bit count of SPACE BLOCKS and SPACE FENCES. -/
def paramSpace (params : List Byte) : Int := (paramByte params 1 ++ paramByte params 0 : BitVec 16).toInt

/-- R26: the block or fence count in byte 0. -/
def paramCount (params : List Byte) : Nat := (paramByte params 0).toNat

/-- R26: the length code of WRITE BLOCKS, byte 1. -/
def paramLength (params : List Byte) : BitVec 2 := (paramByte params 1).extractLsb' 0 2

/-- R26, check 2 of R29: the staged byte count is exactly the code's and every value is in range. -/
def paramsOk (k : OrderKind) (params : List Byte) : Bool :=
  params.length == k.paramCount &&
  match k with
  | .rewind => decide ((paramByte params 0).toNat ≤ 3)
  | .locate => decide ((paramByte params 0).toNat ≤ 3)
  | .moveRaw => paramTicks params != 0
  | .spaceBlocks => paramSpace params != 0
  | .spaceFences => paramSpace params != 0
  | .readBlocks => paramCount params != 0
  | .verifyBlocks => paramCount params != 0
  | .writeBlocks => paramCount params != 0 && decide ((paramByte params 1).toNat ≤ 3)
  | .writeFences => paramCount params != 0
  | _ => true

/-- The record of a partition. -/
def PartTable.get (t : PartTable) (p : PartNo) : PartRecord :=
  match p.toNat with
  | 0 => t.p0
  | 1 => t.p1
  | 2 => t.p2
  | _ => t.p3

/-- The table with one record replaced. -/
def PartTable.set (t : PartTable) (p : PartNo) (r : PartRecord) : PartTable :=
  match p.toNat with
  | 0 => { t with p0 := r }
  | 1 => { t with p1 := r }
  | 2 => { t with p2 := r }
  | _ => { t with p3 := r }

/-- R69: the partition's end, START plus LENGTH. -/
def PartRecord.stop (r : PartRecord) : Nat := r.start.toNat + r.length.toNat

/-- START(p) in a snapshot. -/
def partStart (c : Setup) (p : PartNo) : Int := (c.parts.get p).start.toNat

/-- The end of p in a snapshot. -/
def partEnd (c : Setup) (p : PartNo) : Int := (c.parts.get p).stop

/-- R69: a tick lies in p's region: from START up to, not including, the end. -/
def inRegion (c : Setup) (p : PartNo) (t : Int) : Bool :=
  decide (partStart c p ≤ t) && decide (t < partEnd c p)

/-- R70: the conditions on enabled partitions 1 to 3 in ascending order; `below` is the end of the next lower
enabled partition. -/
def partsOk (margin maxTape : Nat) (below : Nat) : List PartRecord → Bool
  | [] => true
  | r :: rest =>
    if r.enabled then
      decide (below + margin ≤ r.start.toNat) && decide (1024 ≤ r.length.toNat) && decide (r.stop ≤ maxTape) &&
        partsOk margin maxTape r.stop rest
    else partsOk margin maxTape below rest

/-- R70: the partition table is valid, judged against the setup's APPROACH MARGIN and MAX TAPE LENGTH. The START of
partition 0 is at least the margin, so partition 0 is judged against an end of 0 below it. -/
def tableValid (c : Setup) : Bool :=
  c.parts.p0.enabled &&
    partsOk c.approachMargin.toNat c.maxTape.toNat 0 [c.parts.p0, c.parts.p1, c.parts.p2, c.parts.p3]

/-- R75: the motion profile is consistent. -/
def profileConsistent (c : Setup) : Bool :=
  decide (c.startRate.toNat ≤ c.streamRate.toNat) && decide (c.streamRate.toNat ≤ c.searchRate.toNat) &&
    decide ((c.streamRate.toNat - c.startRate.toNat) * c.accel.toNat ≤ c.approachMargin.toNat)

/-- R35: the five profile items that a continuation compares. -/
def sameProfile (c d : Setup) : Bool :=
  c.startRate == d.startRate && c.streamRate == d.streamRate && c.searchRate == d.searchRate &&
    c.accel == d.accel && c.decel == d.decel

end Sys2Proof.Machine
end

