-- ==== Sys2Proof/Machine/Flags.lean ====
section
/-! DEFINITION. Everything the spec computes from the state without changing it: codes, bank views, inhibits, the
status registers, IRQ/ and DREQ, report bytes, the Health Summary and the link items. -/

namespace Sys2Proof.Machine

/-- A Bool as one bit. -/
def bit (b : Bool) : BitVec 1 := if b then 1 else 0

/-! ### Codes -/

/-- R36: the stage number. -/
def stageCode : Stage → BitVec 3
  | .startChecks => 0
  | .reference => 1
  | .travel => 2
  | .scan => 3
  | .settle => 4
  | .done => 5

/-- R51: the cause code. -/
def causeCode : Cause → Byte
  | .success => 0x00
  | .fence => 0x10
  | .endOfData => 0x11
  | .sequenceBreak => 0x12
  | .blank => 0x13
  | .notFound => 0x14
  | .boundary => 0x15
  | .partitionFull => 0x16
  | .readError => 0x20
  | .writeFailed => 0x21
  | .positionLost => 0x22
  | .loadFailed => 0x23
  | .illegalOrder => 0x30
  | .illegalState => 0x31
  | .paramError => 0x32
  | .profileInvalid => 0x33
  | .partitionInvalid => 0x34
  | .writeProtected => 0x35
  | .halted => 0x40
  | .emergencyStopped => 0x41
  | .lockedOut => 0x42
  | .fault => 0x43
  | .mediumRemoved => 0x44
  | .powerOn => 0x50
  | .pinReset => 0x51
  | .deviceReset => 0x52
  | .wake => 0x53
  | .cartridgeInserted => 0x60
  | .cartridgeRemoved => 0x61
  | .faultOnset => 0x62
  | .lockoutSet => 0x63
  | .lockoutCleared => 0x64

/-- R52: the rank of an order cause, 1 the highest. -/
def causeRank : Cause → Nat
  | .mediumRemoved => 1
  | .fault => 2
  | .emergencyStopped => 3
  | .lockedOut => 4
  | .halted => 5
  | _ => 6

/-- R76: the motion state code. -/
def motionCode : MotionState → BitVec 3
  | .stopped => 0
  | .dwell => 1
  | .accelerating => 2
  | .cruising => 3
  | .decelerating => 4
  | .inhibited => 5

/-- R97: the cartridge state code. -/
def cartCode : CartState → BitVec 2
  | .empty => 0
  | .inserted => 1
  | .loading => 2
  | .loaded => 3

/-- R8: the bank state code. -/
def bankCode : BankState → BitVec 3
  | .empty => 0
  | .filling => 1
  | .fullWrite => 2
  | .onTape => 3
  | .capturing => 4
  | .fullRead => 5
  | .draining => 6

/-- R164: the power state of POWER CONTROL; SLEEP is never shown. -/
def powerCode : PowerState → BitVec 2
  | .active => 0
  | .standby => 1
  | .sleepPending => 2
  | .sleep => 0

/-! ### The active order -/

/-- The kind of the active order. -/
def Active.kind (a : Active) : Option OrderKind := orderKind a.entry.code

/-- Whether the order is a reading order (R123). -/
def Active.isRead (a : Active) : Bool := a.kind.any OrderKind.isRead

/-- Whether the order is of the write class (R25). -/
def Active.isWrite (a : Active) : Bool := a.kind.any OrderKind.isWrite

/-- Whether the order streams; the others are positioning orders. -/
def Active.isStream (a : Active) : Bool := a.kind.any OrderKind.isStream

/-- Whether a HALT or a lockout waits for the active order's safe point (R38, R156). -/
def stopWanted (s : State) (a : Active) : Bool := s.seq.haltPending || a.lockPending

/-- The setup values a move runs on: the active order's snapshot (R74); with no order active, the live items (log 32). -/
def profile (s : State) : Setup := (s.seq.active.map Active.snap).getD s.setup

/-! ### Motion -/

/-- R76: the transport is moving. -/
def Motion.moving (m : Motion) : Bool :=
  match m.state with
  | .accelerating => true
  | .cruising => true
  | .decelerating => true
  | _ => false

/-- R86: the counter as a signed count. -/
def Motion.pos (m : Motion) : Int := m.tick.toInt

/-- A request waits at rest, in DWELL or out SETTLE DELAY (R33, R100). -/
def Motion.waitingAtRest (m : Motion) : Bool := m.state == .dwell || m.settling

/-- R76: DRVEN is released in INHIBITED only. -/
def drven (s : State) : Bool := s.motion.state != .inhibited

/-- R98, R131: the transport is CRUISING forward at the order's STREAM RATE. -/
def atStreamRate (m : Motion) (c : Setup) : Bool :=
  m.state == .cruising && m.dir == .forward && m.rate == c.streamRate.toNat

/-! ### Staging banks -/

/-- A bank by its name. -/
def Banks.get (k : Banks) (id : BankId) : Bank :=
  match id with
  | .a => k.a
  | .b => k.b

/-- The banks with one replaced. -/
def Banks.set (k : Banks) (id : BankId) (v : Bank) : Banks :=
  match id with
  | .a => { k with a := v }
  | .b => { k with b := v }

/-- R118: the bank holds write data. -/
def Bank.holdsWrite (v : Bank) : Bool := v.state == .filling || v.state == .fullWrite || v.state == .onTape

/-- R118: the bank holds read data. -/
def Bank.holdsRead (v : Bank) : Bool := v.state == .capturing || v.state == .fullRead || v.state == .draining

/-- The banks whose contents satisfy a test, in the order of their ages (R118: the older first). -/
def Banks.pick (k : Banks) (p : Bank → Bool) : Option BankId :=
  match p k.a, p k.b with
  | true, true => if k.b.age < k.a.age then some .b else some .a
  | true, false => some .a
  | false, true => some .b
  | false, false => none

/-- R118: the bank a claim takes: the EMPTY one; of two, the one not claimed most recently. -/
def Banks.toClaim (k : Banks) : Option BankId :=
  match k.a.state, k.b.state with
  | .empty, .empty => if k.lastClaim = some .a then some .b else some .a
  | .empty, _ => some .a
  | _, .empty => some .b
  | _, _ => none

/-- Some bank holds read data (R27 d, R121). -/
def Banks.anyRead (k : Banks) : Bool := k.a.holdsRead || k.b.holdsRead

/-- Some bank holds write data (R119). -/
def Banks.anyWrite (k : Banks) : Bool := k.a.holdsWrite || k.b.holdsWrite

/-- R119: the readable host-side bank: the DRAINING one, otherwise the oldest FULL READ one. -/
def Banks.readSide (k : Banks) : Option BankId :=
  match k.pick (fun v => v.state == .draining) with
  | some id => some id
  | none => k.pick (fun v => v.state == .fullRead)

/-- R119: the FILLING bank. -/
def Banks.fillSide (k : Banks) : Option BankId := k.pick (fun v => v.state == .filling)

/-- R127, R131: the oldest FULL WRITE bank that an order owns. -/
def Banks.fullFor (k : Banks) (tag : BitVec 4) : Option BankId :=
  k.pick (fun v => v.state == .fullWrite && v.owner == tag)

/-- R121: the banks an order owns that are FILLING, FULL WRITE or ON TAPE. -/
def Banks.owned (k : Banks) (tag : BitVec 4) : Nat :=
  (if k.a.holdsWrite && k.a.owner == tag then 1 else 0) + (if k.b.holdsWrite && k.b.owner == tag then 1 else 0)

/-- R119: the bank directions. -/
inductive Direction where
  | none
  | read
  | write
  deriving DecidableEq, Repr

/-- A READ BLOCKS is active (R119, R121). -/
def readBlocksActive (s : State) : Bool := (s.seq.active.bind Active.kind) == some .readBlocks

/-- R119: the bank direction. -/
def direction (s : State) : Direction :=
  if s.banks.anyRead || readBlocksActive s then .read
  else if s.banks.anyWrite then .write
  else .none

/-- R121: the search for the fill target over the active and waiting orders, each with its blocks verified good. -/
def fillSearch (k : Banks) : List (QueueEntry × Nat) → Option QueueEntry
  | [] => none
  | (e, done) :: rest =>
    match orderKind e.code with
    | some .readBlocks => none
    | some .writeBlocks =>
      if paramsOk .writeBlocks e.params then
        if done + k.owned e.tag < paramCount e.params then some e else fillSearch k rest
      else none
    | _ => fillSearch k rest

/-- R121: the orders the search examines. -/
def fillOrders (s : State) : List (QueueEntry × Nat) :=
  ((s.seq.active.map fun a => (a.entry, a.stream.done)).toList) ++ s.seq.queue.map fun e => (e, 0)

/-- R121, R122: the order that owns a FILLING bank: the fill target until the bank is FULL WRITE, when the target is
found anew (log 38). -/
def fillOwner (s : State) (id : BankId) : Option QueueEntry :=
  ((fillOrders s).find? fun o => o.1.tag == (s.banks.get id).owner).map Prod.fst

/-- R121: the fill target. -/
def fillTarget (s : State) : Option QueueEntry :=
  if readBlocksActive s || s.banks.anyRead || s.seq.haltPending then none
  else
    match s.banks.fillSide with
    | some id => fillOwner s id
    | none => fillSearch s.banks (fillOrders s)

/-- R11: the next Data Port access in the present direction would move a byte. -/
def bankReady (s : State) : Bool :=
  match direction s with
  | .read => s.banks.readSide.isSome
  | _ => (fillTarget s).isSome && (s.banks.fillSide.isSome || s.banks.toClaim.isSome)

/-- R119: HOST BANK REMAINING. -/
def hostBankRemaining (s : State) : Nat :=
  match direction s with
  | .read =>
    match s.banks.readSide with
    | some id => (s.banks.get id).length - (s.banks.get id).moved
    | none => 0
  | _ =>
    match s.banks.fillSide with
    | some id => (s.banks.get id).length - (s.banks.get id).moved
    | none =>
      match fillTarget s with
      | some e => if bankReady s then dataLength (paramLength e.params) else 0
      | none => 0

/-! ### Health -/

/-- Bits of the fault bytes (R146). -/
def supplyLowBit : BitVec 6 := 0b000001
/-- R146. -/
def tensionBit : BitVec 6 := 0b000010
/-- R146. -/
def driverBit : BitVec 6 := 0b000100
/-- R146. -/
def stallBit : BitVec 6 := 0b001000
/-- R146. -/
def writeChannelBit : BitVec 6 := 0b010000
/-- R146. -/
def hotBit : BitVec 6 := 0b100000

/-- R146: the latched faults DRIVER, STALL, WRITE CHANNEL. -/
def latchedFaults : BitVec 6 := 0b011100

/-- R146: the static faults SUPPLY LOW, TENSION, HOT. -/
def staticFaults : BitVec 6 := 0b100011

/-- R149: the faults that inhibit motion. -/
def motionFaults : BitVec 6 := 0b001111

/-- R146, R152: the conditions that hold on the debounced levels. STALL has no standing condition; WRITE CHANNEL
needs the write gate on. -/
def conditions (s : State) : BitVec 6 :=
  bit s.inputs.tempw.level ++ bit (!s.inputs.wrflt.level && s.framer.gate) ++ 0#1 ++ bit (!s.inputs.drvflt.level) ++
    bit (!s.inputs.tensok.level && s.place.cart == .loaded) ++ bit (!s.inputs.supok.level)

/-- R147, R148: the present bits that conditions `cond` leave: static bits follow, latches hold, masked bits are 0. -/
def presentFor (h : Health) (cond : BitVec 6) : BitVec 6 :=
  ((cond &&& staticFaults) ||| ((h.present ||| cond) &&& latchedFaults)) &&& ~~~h.mask

/-- R149: the fault-driven motion inhibit. -/
def Health.motionFault (h : Health) : Bool := h.present &&& motionFaults != 0#6

/-- R149: the write inhibit. -/
def Health.writeFault (h : Health) : Bool := h.present &&& writeChannelBit != 0#6

/-- R155: the four supervisor controls. -/
def Health.lockout (h : Health) : Bool := h.control.getLsbD 0
/-- R155. -/
def Health.writeLock (h : Health) : Bool := h.control.getLsbD 1
/-- R155: CLEAR AUTHORITY is SUPERVISOR ONLY. -/
def Health.supervisorOnly (h : Health) : Bool := h.control.getLsbD 2
/-- R155: FAULT RECOVERY is AUTO. -/
def Health.autoRecovery (h : Health) : Bool := h.control.getLsbD 3

/-- R149: the motion inhibit. -/
def Health.motionInhibit (h : Health) : Bool := h.motionFault || h.lockout

/-- R146: FAULT PRESENT. -/
def faultPresentByte (h : Health) : Byte := 0#2 ++ h.present
/-- R146: FAULT RECORD, bit 7 the POWER-ON flag. -/
def faultRecordByte (h : Health) : Byte := bit h.powerOnFlag ++ 0#1 ++ h.recorded
/-- R146: FAULT MASK. -/
def faultMaskByte (h : Health) : Byte := 0#2 ++ h.mask
/-- R155: SUPERVISOR CONTROL. -/
def controlByte (h : Health) : Byte := 0#4 ++ h.control

/-! ### Power and the Host Port -/

/-- R5: the Host Port is active. -/
def portActive (s : State) : Bool :=
  !s.inputs.rstLow && s.power.state != .sleep && s.power.portWait == 0

/-- R13: DMA mode. -/
def dmaMode (s : State) : Bool := s.setup.dataPath != 0

/-- R171: the pin source is asserted. -/
def pinSource (s : State) : Bool := !s.inputs.slp.level

/-- R171: the part is asleep or about to be. -/
def sleepSeen (s : State) : Bool := s.power.state == .sleepPending || s.power.state == .sleep

/-- R7: BUSY. -/
def busy (s : State) : Bool := s.seq.active.isSome || !s.seq.queue.isEmpty

/-- R7: REPORT PENDING. -/
def reportPending (s : State) : Bool := !s.reports.stored.isEmpty

/-- R9: IRQ/ is driven low. -/
def irqActive (s : State) : Bool :=
  portActive s &&
    ((s.host.intEnable.getLsbD 0 && reportPending s) || (s.host.intEnable.getLsbD 1 && bankReady s))

/-- R13: DREQ is high. -/
def dreq (s : State) : Bool := portActive s && dmaMode s && bankReady s

/-- R6: ORDER STATUS. -/
def orderStatus (s : State) : Byte :=
  (s.seq.tag - 1) ++ bit s.seq.active.isSome ++ BitVec.ofNat 3 s.seq.queue.length

/-- R6: PARAM STATUS. -/
def paramStatus (s : State) : Byte :=
  0#3 ++ bit s.host.paramOverflow ++ BitVec.ofNat 4 s.seq.staging.length

/-- R7: STATUS. -/
def statusByte (s : State) : Byte :=
  bit (irqActive s) ++ bit (reportPending s) ++ bit (bankReady s) ++ bit (busy s) ++ bit s.health.motionInhibit ++
    bit s.host.dataError ++ bit s.host.setupError ++ bit s.host.orderRejected

/-- R8: the code of the bank direction. -/
def directionCode : Direction → BitVec 2
  | .none => 0
  | .read => 1
  | .write => 2

/-- R8: BANK STATUS. -/
def bankStatus (s : State) : Byte :=
  directionCode (direction s) ++ bankCode s.banks.a.state ++ bankCode s.banks.b.state

/-! ### Position and motion bytes -/

/-- R97: LOGICAL BLOCK. -/
def logicalBlock (s : State) : BlockNo := (s.place.position.map Position.next).getD 0

/-- The partition shown, 0 when UNKNOWN (R97). -/
def shownPart (s : State) : PartNo := (s.place.position.map Position.part).getD 0

/-- The EOD flag shown, 0 when UNKNOWN (R97). -/
def shownEod (s : State) : Bool := (s.place.position.map Position.eod).getD false

/-- R97: POSITION STATE. -/
def positionState (s : State) : Byte :=
  bit s.place.wpLatch ++ shownPart s ++ bit (shownEod s) ++ bit s.place.position.isSome ++ bit s.motion.refValid ++
    cartCode s.place.cart

/-- R76: MOTION STATE. -/
def motionStateByte (s : State) : Byte :=
  0#3 ++ bit (s.power.state == .standby) ++ bit (s.motion.lastDir == some .reverse) ++ motionCode s.motion.state

/-! ### Reports -/

/-- R46: DATA PENDING: a bank is FULL READ or DRAINING. -/
def dataPending (k : Banks) : Bool := k.readSide.isSome

/-- R46: FAULT RECORDED. -/
def faultRecorded (h : Health) : Bool := h.recorded != 0#6

/-- R42: byte 0 of a record. -/
def Report.byte0 (r : Report) : Byte := bit r.unsolicited ++ stageCode r.stage ++ r.tag

/-- R42: byte 3 of a record. -/
def Report.byte3 (r : Report) : Byte :=
  bit r.faultRecorded ++ r.part ++ bit r.dataPending ++ bit r.lost ++ bit r.known ++ bit r.warning ++ bit r.recovered

/-- R42: the ten bytes of a record. -/
def Report.bytes (r : Report) : List Byte :=
  [r.byte0, r.code, causeCode r.cause, r.byte3, r.residual.extractLsb' 0 8, r.residual.extractLsb' 8 8,
    r.retries ++ r.discarded, r.next.extractLsb' 0 8, r.next.extractLsb' 8 8, r.next.extractLsb' 16 8]

/-- R47: the byte a read of REPORT returns. -/
def reportByte (q : Reports) : Byte :=
  match q.stored with
  | [] => 0
  | r :: _ => r.bytes.getD q.readIndex 0

/-! ### Locator Map -/

/-- R116: an entry's place in the use order: how many entries were used after it. -/
def usePlace (map : List MapEntry) (e : MapEntry) : Nat := (map.filter fun d => decide (e.stamp < d.stamp)).length

/-- R116: byte 0 of a map entry. -/
def entryByte0 (e : MapEntry) : Byte := 0#5 ++ bit (e.source == .host) ++ e.part

/-- R18, R116: the eight bytes of the entry MAP SELECT names, as one value, lowest byte first; zero where it names
none. -/
def windowValue (s : State) : Nat :=
  match s.place.map[s.setup.mapSelect.toNat]? with
  | none => 0
  | some e =>
    (BitVec.ofNat 8 (usePlace s.place.map e) ++ (e.origin : BitVec 24) ++ e.number ++ entryByte0 e : BitVec 64).toNat

/-! ### The link's views -/

/-- R162: the Health Summary byte. -/
def healthSummary (s : State) : Byte :=
  bit (faultRecorded s.health) ++ bit s.health.powerOnFlag ++ bit s.link.error ++ bit s.health.motionInhibit ++
    bit s.health.lockout ++ bit (busy s) ++ bit (sleepSeen s) ++ bit (s.place.cart == .loaded)

/-- R165: TRANSPORT STATE. -/
def transportState (s : State) : BitVec 16 :=
  0#3 ++ bit s.place.wpLatch ++ shownPart s ++ bit (shownEod s) ++ bit s.place.position.isSome ++
    bit s.motion.refValid ++ cartCode s.place.cart ++ bit (s.power.state == .standby) ++
    bit (s.motion.lastDir == some .reverse) ++ motionCode s.motion.state

/-- R165: ACTIVITY. -/
def activity (s : State) : BitVec 16 :=
  bit s.seq.active.isSome ++ BitVec.ofNat 3 s.reports.stored.length ++ 0#1 ++ BitVec.ofNat 3 s.seq.queue.length ++
    ((s.seq.active.map fun a => a.entry.code).getD 0)

/-- R165, R167: BLOCK HIGH from a next block, a partition and a KNOWN bit. -/
def blockHigh (next : BlockNo) (part : PartNo) (known : Bool) : BitVec 16 :=
  0#5 ++ bit known ++ part ++ next.extractLsb' 16 8

/-- R164, R165: the value of a link item; none for an unassigned index. -/
def linkItem (s : State) (item : BitVec 5) : Option (BitVec 16) :=
  match item.toNat with
  | 0 => some Config.partCode
  | 1 => some (0#8 ++ healthSummary s)
  | 2 => some (0#8 ++ faultPresentByte s.health)
  | 3 => some (0#8 ++ faultRecordByte s.health)
  | 4 => some (0#8 ++ faultMaskByte s.health)
  | 5 => some (0#8 ++ controlByte s.health)
  | 6 => some (0#13 ++ powerCode s.power.state ++ bit s.link.sleepReq)
  | 7 => some (transportState s)
  | 8 => some (s.motion.tick.extractLsb' 0 16)
  | 9 => some (0#8 ++ (s.link.tickPair.getD s.motion.tick).extractLsb' 16 8)
  | 10 => some ((logicalBlock s).extractLsb' 0 16)
  | 11 =>
    match s.link.blockPair with
    | some p => some (blockHigh p.next p.part p.known)
    | none => some (blockHigh (logicalBlock s) (shownPart s) s.place.position.isSome)
  | 12 => some (activity s)
  | 13 => some (s.link.errorCount ++ s.reports.overflow)
  | 14 => some (0#4 ++ s.reports.lastTag ++ causeCode s.reports.lastCause)
  | _ => none

/-- R161: the 24 bits shifted out on LDO in the frame last shifted: the summary, then the snapshot low byte first. -/
def linkResponse (l : Link) : BitVec 24 :=
  l.frame.summary ++ l.frame.snapshot.extractLsb' 0 8 ++ l.frame.snapshot.extractLsb' 8 8

/-- R159: the falling edges of LCLK that have followed a rising edge of the frame. -/
def FrameRegs.falls (r : FrameRegs) : Nat := r.edges - (if r.clock then 1 else 0)

/-- R159: the level of LDO: each falling edge presents the next output bit, and after the 24th rising edge LDO is low;
none is high impedance. -/
def ldo (l : Link) : Option Bool :=
  if l.frame.selected then
    some (decide (l.frame.edges < 24) && (linkResponse l).getLsbD (23 - l.frame.falls))
  else none

end Sys2Proof.Machine
end

