-- ==== Sys2Proof/Machine/Controller.lean ====
section
/-! DEFINITION. The Capstan Motion Controller alone (chapter 5): ramps, stops, requests, the zeroing seek, markers
and limits, the stall count. Functions of the controller's own state; the events they hand are returned. -/

namespace Sys2Proof.Machine

/-- The controller after an action, and the events it hands (R92). -/
structure Ctl where
  motion : Motion
  events : List MotionEvent
  deriving DecidableEq, Repr

/-- What the controller reads besides its own state: the profile in force and the marker sensors. -/
structure CtlEnv where
  setup : Setup
  bots : Bool
  eots : Bool
  deriving DecidableEq, Repr

/-- The other direction. -/
def Dir.flip : Dir → Dir
  | .forward => .reverse
  | .reverse => .forward

/-- R79: the braking distance at a rate, in ticks. -/
def braking (c : Setup) (rate : Nat) : Nat := (rate - c.startRate.toNat) * c.decel.toNat

/-- R74: the rate a request asks for. -/
def Request.rate : Request → Nat
  | .moveTo _ r => r
  | .run _ r => r
  | .seek r => r

/-- The request with another rate (R83). -/
def Request.withRate (q : Request) (r : Nat) : Request :=
  match q with
  | .moveTo t _ => .moveTo t r
  | .run d _ => .run d r
  | .seek _ => .seek r

/-- R80: the number of ticks to a target, counted in a direction of travel. -/
def remaining (dir : Dir) (pos target : Int) : Int :=
  match dir with
  | .forward => target - pos
  | .reverse => pos - target

/-- The rate the controller is asked to reach; the rate in force where no request stands. -/
def Motion.wanted (m : Motion) : Nat := (m.request.map Request.rate).getD m.rate

/-- The target of the request being served, if it is a move-to. -/
def Motion.target (m : Motion) : Option Int :=
  match m.request with
  | some (.moveTo t _) => some t
  | _ => none

/-- Decelerating to rest (R79). -/
def Motion.toRest (m : Motion) : Bool := m.decel == .planned || m.decel == .unplanned

/-- R81, R91: the controller at rest: LAST OVERSHOOT is loaded, the stall count cleared. -/
def Motion.rested (m : Motion) : Motion :=
  { m with state := .stopped, rate := 0, ramp := 0, decel := .none, stallCount := 0, steady := 0,
           lastOvershoot := BitVec.ofNat 16 m.overshoot }

/-- R88: a zeroing seek whose forward leg has ended goes on from the rest with its second leg. -/
def seekPending (m : Motion) (q : Request) : SeekPhase :=
  match q with
  | .seek _ => if m.seek == .offMarker then .offMarker else .none
  | _ => .none

/-- R83, R92: a rest is reached. A pending request starts there without a stopped-at; otherwise the serving ends. -/
def restNow (m : Motion) : Ctl :=
  match m.waiting with
  | some q =>
    { motion := { m.rested with request := some q, waiting := none, seek := seekPending m q }, events := [.restart] }
  | none =>
    { motion := { m.rested with request := none, seek := .none }
      events := [.stoppedAt m.tick m.overshoot false] }

/-- R81: an unplanned controlled stop begins; it drops any target and restarts the ramp step count. At START RATE the
transport rests at once. The overshoot counts on: only a request restarts it. -/
def beginStop (c : Setup) (m : Motion) : Ctl :=
  let kept : Option Request :=
    match m.request with
    | some (.moveTo _ r) => some (.run m.dir r)
    | q => q
  let m1 := { m with request := kept, steady := 0, ramp := 0 }
  if m.rate ≤ c.startRate.toNat then restNow m1
  else { motion := { m1 with state := .decelerating, decel := .unplanned }, events := [] }

/-- R80, second test: a planned stop begins when the remaining distance is at or below the braking distance. The flag
says that the move has arrived. -/
def planStop (c : Setup) (m : Motion) : Motion × Bool :=
  match m.target with
  | none => (m, false)
  | some t =>
    if remaining m.dir m.pos t ≤ braking c m.rate then
      ({ m with state := .decelerating, decel := .planned, ramp := 0, steady := 0 }, decide (m.rate ≤ c.startRate.toNat))
    else (m, false)

/-- R80, first test: whether a due rise to the next rate leaves room to brake. -/
def riseAllowed (c : Setup) (m : Motion) : Bool :=
  match m.target with
  | none => true
  | some t => decide ((braking c (m.rate + 1) : Int) ≤ remaining m.dir m.pos t)

/-- What the ramp does on a step (R78 to R80). -/
structure Ramp where
  motion : Motion
  atRate : Bool
  arrived : Bool
  deriving DecidableEq, Repr

/-- R78, R80: a due rise while accelerating. -/
def riseStep (c : Setup) (m : Motion) : Motion × Bool :=
  if c.accel.toNat ≤ m.ramp then
    if riseAllowed c m then
      let m1 := { m with rate := m.rate + 1, ramp := 0 }
      if m1.wanted ≤ m1.rate then ({ m1 with state := .cruising, steady := 0 }, true) else (m1, false)
    else ({ m with state := .cruising, ramp := 0, steady := 0 }, false)
  else (m, false)

/-- R78: a due fall toward a lower requested rate. -/
def fallStep (c : Setup) (m : Motion) : Motion × Bool :=
  if c.decel.toNat ≤ m.ramp then
    let m1 := { m with rate := m.rate - 1, ramp := 0 }
    if m1.rate ≤ m1.wanted then ({ m1 with state := .cruising, decel := .none, steady := 0 }, true) else (m1, false)
  else (m, false)

/-- R79: a due fall toward rest; the move ends on the step on which the rate falls to START RATE. -/
def brakeStep (c : Setup) (m : Motion) : Motion × Bool :=
  if c.decel.toNat ≤ m.ramp then
    let m1 := { m with rate := m.rate - 1, ramp := 0 }
    (m1, decide (m1.rate ≤ c.startRate.toNat))
  else (m, false)

/-- R78 to R80: the ramp after a step has been counted. -/
def rampStep (c : Setup) (m : Motion) : Ramp :=
  if m.toRest then
    let r := brakeStep c m
    { motion := r.1, atRate := false, arrived := r.2 }
  else
    let moved :=
      match m.state with
      | .accelerating => riseStep c m
      | .decelerating => fallStep c m
      | _ => ({ m with steady := if m.dir == Dir.forward then m.steady + 1 else 0 }, false)
    let p := planStop c moved.1
    { motion := p.1, atRate := moved.2, arrived := p.2 }

/-- R53, R91, R92: the end of a step: the events `pre` of the step, the step itself, a stall where the stall count has
reached STALL WINDOW, then what the outcome `o` hands. `stalls` is the stall count with this step. A boundary among `pre`
comes before what the step itself brings. No rule orders a marker or a travel limit against the header field that ends on
its step (R106, R107, R109, R123), nor against the trailer of an END that ends there (R137, R142): the model takes the
boundary first, so the order no longer classifies that header, and the END is cut short, with the position before M and
EOD clear (DESIGN CHOICE, log 43). -/
def closeStep (c : Setup) (pre : List MotionEvent) (stalls : Nat) (o : Ctl) : Ctl :=
  if c.stallWindow.toNat ≤ stalls then
    { motion := { o.motion with stallCount := 0 }, events := pre ++ [.stepped, .stall] ++ o.events }
  else { motion := o.motion, events := pre ++ [.stepped] ++ o.events }

/-- R77, R78: at-rate on the first step of a move that starts at its requested rate. -/
def firstRate (m : Motion) : List MotionEvent :=
  if m.run = 1 ∧ m.state = .cruising then [.atRate m.rate] else []

/-- R78: at-rate on the step whose ramp reaches the requested rate. -/
def Ramp.rate (r : Ramp) : List MotionEvent := if r.atRate then [.atRate r.motion.rate] else []

/-- The end of a step whose ramp ran: at-rate, the events `pre`, and the rest if the move has arrived. -/
def endStep (c : Setup) (pre : List MotionEvent) (r : Ramp) : Ctl :=
  closeStep c (r.rate ++ pre) r.motion.stallCount (if r.arrived then restNow r.motion else { motion := r.motion, events := [] })

/-- The end of a step on which an unplanned stop begins: `pre` holds the events that call for it (R88 to R91). R81 has a
stop begun while the rate is rising take the braking distance at the rate before the pending rise, and says nothing of a
fall that is due on that step: the model takes the rate before the fall too (DESIGN CHOICE, log 42). -/
def stopStep (c : Setup) (pre : List MotionEvent) (m : Motion) : Ctl :=
  closeStep c pre m.stallCount (beginStop c m)

/-- R64, R81, R86, R88, R91: the step itself: the pulse, the counter, the counts. -/
def countStep (m : Motion) : Motion :=
  { m with
    tick := (match m.dir with | .forward => m.tick + 1 | .reverse => m.tick - 1)
    lastDir := some m.dir
    ramp := m.ramp + 1
    stallCount := m.stallCount + 1
    overshoot := if m.decel == .unplanned then m.overshoot + 1 else m.overshoot
    run := m.run + 1
    seekSteps := if m.seek == .offMarker || m.seek == .seeking then m.seekSteps + 1 else m.seekSteps }

/-- R89: the marker ahead is asserted. -/
def markerAhead (e : CtlEnv) (dir : Dir) : Option BoundaryReason :=
  match dir with
  | .forward => if e.eots then some .eot else none
  | .reverse => if e.bots then some .bot else none

/-- R90: a move-to whose target lies within the limits is met by no limit, unless it is being stopped. -/
def limitExempt (c : Setup) (m : Motion) : Bool :=
  match m.target with
  | none => false
  | some t => decide (-1 ≤ t) && decide (t ≤ c.maxTape.toNat) && m.decel != .unplanned

/-- R90: the travel limit the counter reaches on this step. R90 speaks of the step that reaches a limit and of a start at
or beyond one. An order that continues another (R35) takes a new snapshot while the transport moves, and its MAX TAPE
LENGTH may lie below the counter: no later step reaches it, so the model hands no LENGTH LIMIT there (DESIGN CHOICE,
log 42). -/
def limitReached (c : Setup) (m : Motion) : Option BoundaryReason :=
  match m.dir with
  | .forward => if m.pos = c.maxTape.toNat then some .lengthLimit else none
  | .reverse => if m.pos = -1 then some .leaderLimit else none

/-- R89, R90: the boundary met on this step, outside a zeroing seek: a marker first, at most once a move; otherwise a
limit, where no boundary was handed in this move (log 26). -/
def boundaryMet (e : CtlEnv) (m : Motion) : Option BoundaryReason :=
  match (if m.sensed then none else markerAhead e m.dir) with
  | some r => some r
  | none => if m.bounded || limitExempt e.setup m then none else limitReached e.setup m

/-- A boundary event marks the move (R89, R90). R89 has a marker drop any pending request; R90 does not say so of a travel
limit, and the model lets a limit drop it too (DESIGN CHOICE, log 42). -/
def markBoundary (m : Motion) (r : BoundaryReason) : Motion :=
  { m with bounded := true, sensed := m.sensed || r == .bot || r == .eot, waiting := none }

/-- R88: the zeroing step: the counter is set to 0 in place of the step's count and the reference becomes VALID. -/
def zeroStep (m : Motion) : Motion := { m with tick := 0, refValid := true, seek := .ended }

/-- R88: the seek step count has reached MAX TAPE LENGTH before the edge was found; the steps of the stop between the
legs of a seek are steps of the seek too. -/
def seekSpent (c : Setup) (m : Motion) : Bool :=
  (!m.toRest || m.seek == .offMarker) && decide (c.maxTape.toNat ≤ m.seekSteps)

/-- R88: the controller as an exhausted seek leaves it: over, with no second leg. -/
def seekOver (m : Motion) : Motion := { m with seek := .ended, waiting := none }

/-- R88: a step of a zeroing seek that is still looking for its edge. -/
def seekStep (e : CtlEnv) (m : Motion) : Ctl :=
  if m.seek == .seeking && !m.toRest && e.bots then stopStep e.setup (.zeroed :: firstRate m) (zeroStep m)
  else if seekSpent e.setup m then stopStep e.setup (firstRate m ++ [.boundary .seekExhausted]) (seekOver m)
  else if m.seek == .offMarker && !m.toRest && !e.bots then
    stopStep e.setup (firstRate m) { m with waiting := some (.seek m.wanted) }
  else endStep e.setup (firstRate m) (rampStep e.setup m)

/-- R89: a step on which a marker or limit is met. At the step of a planned arrival the rest follows the boundary. R89
speaks only of a planned arrival; met on the last step of an unplanned stop, the model rests on that step too and
begins no further stop (DESIGN CHOICE, log 42). -/
def boundaryStep (e : CtlEnv) (r : BoundaryReason) (m : Motion) : Ctl :=
  let ramp := rampStep e.setup m
  if ramp.arrived then
    endStep e.setup (firstRate m ++ [.boundary r]) { ramp with motion := markBoundary ramp.motion r }
  else stopStep e.setup (firstRate m ++ [.boundary r]) (markBoundary m r)

/-- R74, R92: one step of a moving transport. -/
def stepOnce (e : CtlEnv) (m : Motion) : Ctl :=
  let m1 := countStep m
  match m.seek with
  | .offMarker => seekStep e m1
  | .seeking => seekStep e m1
  | .ended => endStep e.setup (firstRate m1) (rampStep e.setup m1)
  | .none =>
    match boundaryMet e m1 with
    | none => endStep e.setup (firstRate m1) (rampStep e.setup m1)
    | some r => boundaryStep e r m1

/-- R90: a move toward a limit that the counter already stands at or beyond. -/
def limitAt (c : Setup) (m : Motion) : Option BoundaryReason :=
  match m.dir with
  | .forward => if (c.maxTape.toNat : Int) ≤ m.pos then some .lengthLimit else none
  | .reverse => if m.pos ≤ -1 then some .leaderLimit else none

/-- R89, R90: the marker or limit that forbids the first step, outside a zeroing seek. -/
def startRefused (e : CtlEnv) (m : Motion) : Option BoundaryReason :=
  if m.seek != .none then none
  else
    match markerAhead e m.dir with
    | some r => some r
    | none => limitAt e.setup m

/-- R77 step 4: the start checks, then the move at START RATE, with the ramp step count at 0; its first step is the next
one (log 8). -/
def startMove (e : CtlEnv) (m : Motion) : Ctl :=
  match startRefused e m with
  | some r =>
    { motion := { m.rested with request := none, waiting := none, seek := .none, overshoot := 0, lastOvershoot := 0 }
      events := [.boundary r, .stoppedAt m.tick 0 false] }
  | none =>
    { motion :=
        { m with state := if m.wanted ≤ e.setup.startRate.toNat then .cruising else .accelerating
                 rate := e.setup.startRate.toNat
                 ramp := 0, decel := .none, sensed := false, bounded := false, stallCount := 0, steady := 0
                 dwellTimer := 0, run := 0 }
      events := [] }

/-- R77 steps 3 and 4, R82: a start in a direction: through DWELL where the direction differs from the last step's. A
REVERSAL DWELL of 0 enters and leaves DWELL in one step. -/
def launch (e : CtlEnv) (m : Motion) (dir : Dir) : Ctl :=
  if m.lastDir == some dir.flip && e.setup.reversalDwell.toNat != 0 then
    { motion := { m with state := .dwell, dir := dir, dwellTimer := e.setup.reversalDwell.toNat }, events := [] }
  else startMove e { m with dir := dir }

/-- The controller with a request cancelled or met at rest: one stopped-at, overshoot 0 (R77, R83, R92). -/
def stopAtRest (m : Motion) (held : Bool) : Ctl :=
  { motion := { m with state := .stopped, request := none, waiting := none, settling := false, settleTimer := 0,
                       dwellTimer := 0, seek := .none, overshoot := 0, lastOvershoot := 0 }
    events := [.stoppedAt m.tick 0 held] }

/-- R88: the direction in which a zeroing seek starts: forward where it finds the marker asserted. -/
def seekDir (e : CtlEnv) : Dir := if e.bots then .forward else .reverse

/-- R88: a zeroing seek starts: the reference becomes INVALID and the seek step count 0. A seek that starts on the
marker first runs forward off it. -/
def seekBegins (e : CtlEnv) (m : Motion) : Motion :=
  { m with refValid := false, seekSteps := 0, seek := if e.bots then .offMarker else .seeking }

/-- R77, R88: a request goes on after any settle wait: its direction is found and the move launched. The second leg of a
seek runs in reverse. -/
def goOn (e : CtlEnv) (m : Motion) : Ctl :=
  match m.request with
  | none => { motion := m, events := [] }
  | some (.moveTo t _) =>
    if t = m.pos then stopAtRest m false
    else launch e m (if m.pos < t then .forward else .reverse)
  | some (.run d _) => launch e m d
  | some (.seek _) =>
    if m.seek == .none then launch e (seekBegins e m) (seekDir e)
    else launch e { m with seek := .seeking } .reverse

/-- R81, R83: a request taken at rest; the overshoot counts from it. -/
def Motion.opening (m : Motion) (q : Request) : Motion :=
  { m with seek := .none, request := some q, overshoot := 0 }

/-- R83: the direction in which a request received at rest would move; none for a move-to already at its target. -/
def requestDir (e : CtlEnv) (m : Motion) (q : Request) : Option Dir :=
  match q with
  | .moveTo t _ => if t = m.pos then none else some (if m.pos < t then .forward else .reverse)
  | .run d _ => some d
  | .seek _ => some (seekDir e)

/-- R83: the request that a dwell serves is replaced by one that needs the same direction. -/
def dwellServes (e : CtlEnv) (m : Motion) (q : Request) : Motion :=
  match q with
  | .seek _ => seekBegins e (m.opening q)
  | _ => m.opening q

/-- R82, R83: a request received in DWELL. One in the direction of the last step ends the dwell and starts; another
replaces the request the dwell serves. Two points are the model's (DESIGN CHOICE, log 42): a move-to whose target
equals the counter, which has no direction, ends the dwell with stopped-at, overshoot 0; and a zeroing seek, which
R83's table does not name there, replaces the request as the run in its first direction would. -/
def requestDwell (e : CtlEnv) (m : Motion) (q : Request) : Ctl :=
  match requestDir e m q with
  | none => stopAtRest m false
  | some d =>
    if m.lastDir == some d then goOn e ({ m with state := .stopped, dwellTimer := 0 }.opening q)
    else { motion := dwellServes e m q, events := [] }

/-- R82, R77: the dwell timer or the settle wait has run out and the waiting move goes on. -/
def waitOver (e : CtlEnv) (m : Motion) : Ctl :=
  match m.state with
  | .dwell => startMove e m
  | _ => if m.settling then goOn e { m with settling := false, settleTimer := 0 } else { motion := m, events := [] }

/-- R78, R83: the requested rate is replaced while moving. R78 has a change to the rate in force change nothing, R83 has
the requested rate replaced: during a ramp the model takes the rate in force as the requested rate, so the state
becomes CRUISING there, and no at-rate is handed (DESIGN CHOICE, log 42). -/
def retarget (m : Motion) (q : Request) : Motion :=
  let m1 := { m with request := some q }
  if m.rate < q.rate then
    if m.state == .accelerating then m1 else { m1 with state := .accelerating, decel := .none, ramp := 0, steady := 0 }
  else if q.rate < m.rate then
    if m.decel == .toRate then m1 else { m1 with state := .decelerating, decel := .toRate, ramp := 0, steady := 0 }
  else if m.state == .cruising then m1
  else { m1 with state := .cruising, decel := .none, ramp := 0, steady := 0 }

/-- R83: a move-to or run adopted by a moving transport: the target is ahead with room to brake, or the direction is
the same. A zeroing seek is never adopted. -/
def adoptable (c : Setup) (m : Motion) (q : Request) : Bool :=
  match q with
  | .moveTo t _ => decide (0 < remaining m.dir m.pos t) && decide ((braking c m.rate : Int) ≤ remaining m.dir m.pos t)
  | .run d _ => d == m.dir
  | .seek _ => false

/-- R77, R83: a move-to, run or zeroing seek in the state in which it arrives. `settle` is the wait owed because the
Power Manager held the transport in STANDBY (R77 step 2). -/
def requestMove (e : CtlEnv) (settle : Nat) (m : Motion) (q : Request) : Ctl :=
  match m.state with
  | .inhibited => { motion := m, events := [] }
  | .stopped =>
    if m.settling then { motion := m.opening q, events := [] }
    else if settle = 0 then goOn e (m.opening q)
    else
      match q with
      | .moveTo t _ =>
        if t = m.pos then stopAtRest m false
        else { motion := { m.opening q with settling := true, settleTimer := settle }, events := [] }
      | _ => { motion := { m.opening q with settling := true, settleTimer := settle }, events := [] }
  | .dwell => requestDwell e m q
  | _ =>
    if m.toRest then { motion := { m with waiting := some q, overshoot := 0 }, events := [] }
    else if adoptable e.setup m q then { motion := { retarget m q with overshoot := 0 }, events := [] }
    else beginStop e.setup { m with waiting := some q, overshoot := 0 }

/-- R83: a stop request. -/
def requestStop (c : Setup) (m : Motion) : Ctl :=
  match m.state with
  | .inhibited => { motion := m, events := [] }
  | .stopped => stopAtRest m false
  | .dwell => stopAtRest m false
  | _ =>
    if m.toRest then { motion := { m with waiting := none, overshoot := 0 }, events := [] }
    else beginStop c { m with waiting := none, overshoot := 0 }

/-- R83: a change rate request. -/
def requestRate (m : Motion) (r : Nat) : Ctl :=
  match m.state with
  | .inhibited => { motion := m, events := [] }
  | .stopped =>
    if m.settling then { motion := { m with request := m.request.map (Request.withRate · r) }, events := [] }
    else { motion := m, events := [] }
  | .dwell => { motion := { m with request := m.request.map (Request.withRate · r) }, events := [] }
  | _ =>
    if m.toRest then { motion := { m with waiting := m.waiting.map (Request.withRate · r), overshoot := 0 }, events := [] }
    else
      match m.request with
      | some q => { motion := { retarget m (q.withRate r) with overshoot := 0 }, events := [] }
      | none => { motion := m, events := [] }

/-- R84: a hold. Moving: stepping ceases, the requests and the seek are dropped, the reference becomes INVALID. At
rest: a dwell or settle wait is abandoned and the reference kept; stopped-at only if a request was being served. -/
def holdMotion (inhibit : Bool) (m : Motion) : Ctl :=
  let state : MotionState := if inhibit then .inhibited else if m.state == .inhibited then .inhibited else .stopped
  if m.moving then
    { motion := { m with state := state, rate := 0, request := none, waiting := none, ramp := 0, decel := .none
                         seek := .none, refValid := false, stallCount := 0, steady := 0
                         settling := false, settleTimer := 0
                         lastOvershoot := BitVec.ofNat 16 m.overshoot }
      events := [.stoppedAt m.tick m.overshoot true] }
  else if m.request.isSome then
    { motion := { (stopAtRest m true).motion with state := state }, events := (stopAtRest m true).events }
  else { motion := { m with state := state, waiting := none, settling := false, settleTimer := 0, dwellTimer := 0 }
         events := [] }

/-- R85: the inhibit lifts: STOPPED, DRVEN asserted, nothing else changes. -/
def liftInhibit (m : Motion) : Motion := if m.state == .inhibited then { m with state := .stopped } else m

end Sys2Proof.Machine
end

