-- ==== Sys2Proof/Machine/Items.lean ====
section
/-! DEFINITION. Setup Space: which item an index belongs to, its class, its live value, its range, and storing it
(chapter 11, R183 to R187). -/

namespace Sys2Proof.Machine

/-- The setup items (R183). -/
inductive Item where
  | identity
  | clockRate
  | dataPath
  | lastSetupError
  | startRate
  | streamRate
  | searchRate
  | accel
  | decel
  | reversalDwell
  | settleDelay
  | stallWindow
  | approachMargin
  | gapLimit
  | earlyWarning
  | maxTape
  | readRetry
  | rewriteLimit
  | repositionLimit
  | landmarkSpacing
  | standbyDelay
  | sleepDeadline
  | partStart (p : PartNo)
  | partLength (p : PartNo)
  | partEnabled (p : PartNo)
  | faultPresent
  | faultRecord
  | faultMask
  | supervisorControl
  | faultClear
  | currentRate
  | lastOvershoot
  | tick
  | logicalBlock
  | positionState
  | motionState
  | lastHeader
  | hostBankRemaining
  | repositions
  | retries
  | reportOverflow
  | mapSelect
  | mapCount
  | mapEntry
  deriving DecidableEq, Repr

/-- The classes of R15 other than unassigned. -/
inductive ItemClass where
  | writable
  | readOnly
  | action
  | window
  deriving DecidableEq, Repr

/-- A row of the index map: lowest index, size in bytes, item (R183 to R187). -/
structure ItemRow where
  base : Nat
  size : Nat
  item : Item
  deriving DecidableEq, Repr

/-- R184: the writable items other than the partition table. -/
def policyRows : List ItemRow :=
  [⟨0x02, 1, .clockRate⟩, ⟨0x03, 1, .dataPath⟩, ⟨0x08, 1, .startRate⟩, ⟨0x09, 1, .streamRate⟩,
    ⟨0x0A, 1, .searchRate⟩, ⟨0x0B, 1, .accel⟩, ⟨0x0C, 1, .decel⟩, ⟨0x0D, 1, .reversalDwell⟩,
    ⟨0x0E, 1, .settleDelay⟩, ⟨0x0F, 1, .stallWindow⟩, ⟨0x10, 2, .approachMargin⟩, ⟨0x12, 2, .gapLimit⟩,
    ⟨0x14, 3, .earlyWarning⟩, ⟨0x17, 3, .maxTape⟩, ⟨0x1A, 1, .readRetry⟩, ⟨0x1B, 1, .rewriteLimit⟩,
    ⟨0x1C, 1, .repositionLimit⟩, ⟨0x1D, 1, .landmarkSpacing⟩, ⟨0x1E, 1, .standbyDelay⟩, ⟨0x1F, 1, .sleepDeadline⟩,
    ⟨0x60, 1, .mapSelect⟩]

/-- R185: the three items of record p. -/
def partRows (p : PartNo) : List ItemRow :=
  let base := 0x20 + 7 * p.toNat
  [⟨base, 3, .partStart p⟩, ⟨base + 3, 3, .partLength p⟩, ⟨base + 6, 1, .partEnabled p⟩]

/-- R187: the read-only items, FAULT CLEAR and the MAP ENTRY window. -/
def statusRows : List ItemRow :=
  [⟨0x00, 2, .identity⟩, ⟨0x04, 1, .lastSetupError⟩, ⟨0x40, 1, .faultPresent⟩, ⟨0x41, 1, .faultRecord⟩,
    ⟨0x42, 1, .faultMask⟩, ⟨0x43, 1, .supervisorControl⟩, ⟨0x44, 1, .faultClear⟩, ⟨0x45, 1, .currentRate⟩,
    ⟨0x46, 2, .lastOvershoot⟩, ⟨0x48, 3, .tick⟩, ⟨0x4B, 3, .logicalBlock⟩, ⟨0x4E, 1, .positionState⟩,
    ⟨0x4F, 1, .motionState⟩, ⟨0x50, 6, .lastHeader⟩, ⟨0x56, 2, .hostBankRemaining⟩, ⟨0x58, 2, .repositions⟩,
    ⟨0x5A, 2, .retries⟩, ⟨0x5C, 1, .reportOverflow⟩, ⟨0x61, 1, .mapCount⟩, ⟨0x62, 8, .mapEntry⟩]

/-- R183: the whole index map. -/
def itemRows : List ItemRow := policyRows ++ partRows 0 ++ partRows 1 ++ partRows 2 ++ partRows 3 ++ statusRows

/-- R183: the row an index belongs to; none for an unassigned index. -/
def itemAt (index : Byte) : Option ItemRow :=
  itemRows.find? fun r => decide (r.base ≤ index.toNat) && decide (index.toNat < r.base + r.size)

/-- R183: the class of an item. -/
def Item.cls : Item → ItemClass
  | .identity => .readOnly
  | .lastSetupError => .readOnly
  | .faultPresent => .readOnly
  | .faultRecord => .readOnly
  | .faultMask => .readOnly
  | .supervisorControl => .readOnly
  | .faultClear => .action
  | .currentRate => .readOnly
  | .lastOvershoot => .readOnly
  | .tick => .readOnly
  | .logicalBlock => .readOnly
  | .positionState => .readOnly
  | .motionState => .readOnly
  | .lastHeader => .readOnly
  | .hostBankRemaining => .readOnly
  | .repositions => .readOnly
  | .retries => .readOnly
  | .reportOverflow => .readOnly
  | .mapCount => .readOnly
  | .mapEntry => .window
  | _ => .writable

/-- R66: the six bytes of LAST HEADER as one value, byte 50h lowest. -/
def headerValue (c : HeaderContent) : Nat := (c.b5 ++ c.b4 ++ c.b3 ++ c.b2 ++ c.b1 ++ c.b0 : BitVec 48).toNat

/-- R187: the live value of an item, lowest byte least significant (R2). -/
def itemValue (s : State) : Item → Nat
  | .identity => Config.partCode.toNat
  | .clockRate => s.setup.clockRate.toNat
  | .dataPath => s.setup.dataPath.toNat
  | .lastSetupError => s.host.lastSetupError.toNat
  | .startRate => s.setup.startRate.toNat
  | .streamRate => s.setup.streamRate.toNat
  | .searchRate => s.setup.searchRate.toNat
  | .accel => s.setup.accel.toNat
  | .decel => s.setup.decel.toNat
  | .reversalDwell => s.setup.reversalDwell.toNat
  | .settleDelay => s.setup.settleDelay.toNat
  | .stallWindow => s.setup.stallWindow.toNat
  | .approachMargin => s.setup.approachMargin.toNat
  | .gapLimit => s.setup.gapLimit.toNat
  | .earlyWarning => s.setup.earlyWarning.toNat
  | .maxTape => s.setup.maxTape.toNat
  | .readRetry => s.setup.readRetry.toNat
  | .rewriteLimit => s.setup.rewriteLimit.toNat
  | .repositionLimit => s.setup.repositionLimit.toNat
  | .landmarkSpacing => s.setup.landmarkSpacing.toNat
  | .standbyDelay => s.setup.standbyDelay.toNat
  | .sleepDeadline => s.setup.sleepDeadline.toNat
  | .partStart p => (s.setup.parts.get p).start.toNat
  | .partLength p => (s.setup.parts.get p).length.toNat
  | .partEnabled p => if (s.setup.parts.get p).enabled then 1 else 0
  | .faultPresent => (faultPresentByte s.health).toNat
  | .faultRecord => (faultRecordByte s.health).toNat
  | .faultMask => (faultMaskByte s.health).toNat
  | .supervisorControl => (controlByte s.health).toNat
  | .faultClear => 0
  | .currentRate => (BitVec.ofNat 8 s.motion.rate).toNat
  | .lastOvershoot => s.motion.lastOvershoot.toNat
  | .tick => s.motion.tick.toNat
  | .logicalBlock => (Machine.logicalBlock s).toNat
  | .positionState => (Machine.positionState s).toNat
  | .motionState => (motionStateByte s).toNat
  | .lastHeader => headerValue s.framer.lastHeader
  | .hostBankRemaining => Machine.hostBankRemaining s
  | .repositions => s.banks.repositions.toNat
  | .retries => s.banks.retries.toNat
  | .reportOverflow => s.reports.overflow.toNat
  | .mapSelect => s.setup.mapSelect.toNat
  | .mapCount => s.place.map.length
  | .mapEntry => windowValue s

/-- R184, R185: the range a commit accepts. Only writable items are asked. -/
def Item.accepts (item : Item) (v : Nat) : Bool :=
  match item with
  | .clockRate => decide (4 ≤ v) && decide (v ≤ 25)
  | .dataPath => decide (v ≤ 1)
  | .startRate => decide (1 ≤ v) && decide (v ≤ 63)
  | .streamRate => decide (1 ≤ v) && decide (v ≤ 63)
  | .searchRate => decide (1 ≤ v) && decide (v ≤ 63)
  | .accel => decide (1 ≤ v)
  | .decel => decide (1 ≤ v)
  | .stallWindow => decide (8 ≤ v)
  | .approachMargin => decide (16 ≤ v)
  | .gapLimit => decide (64 ≤ v)
  | .earlyWarning => decide (v ≤ 1000000)
  | .maxTape => decide (10000 ≤ v) && decide (v ≤ 8000000)
  | .readRetry => decide (v ≤ 7)
  | .rewriteLimit => decide (v ≤ 7)
  | .repositionLimit => decide (1 ≤ v) && decide (v ≤ 15)
  | .landmarkSpacing => decide (1 ≤ v)
  | .sleepDeadline => decide (1 ≤ v)
  | .partEnabled _ => decide (v ≤ 1)
  | .mapSelect => decide (v ≤ 23)
  | _ => true

/-- One item of the setup replaced by a committed value (R16). -/
def Setup.store (c : Setup) (item : Item) (v : Nat) : Setup :=
  match item with
  | .clockRate => { c with clockRate := BitVec.ofNat 8 v }
  | .dataPath => { c with dataPath := BitVec.ofNat 8 v }
  | .startRate => { c with startRate := BitVec.ofNat 8 v }
  | .streamRate => { c with streamRate := BitVec.ofNat 8 v }
  | .searchRate => { c with searchRate := BitVec.ofNat 8 v }
  | .accel => { c with accel := BitVec.ofNat 8 v }
  | .decel => { c with decel := BitVec.ofNat 8 v }
  | .reversalDwell => { c with reversalDwell := BitVec.ofNat 8 v }
  | .settleDelay => { c with settleDelay := BitVec.ofNat 8 v }
  | .stallWindow => { c with stallWindow := BitVec.ofNat 8 v }
  | .approachMargin => { c with approachMargin := BitVec.ofNat 16 v }
  | .gapLimit => { c with gapLimit := BitVec.ofNat 16 v }
  | .earlyWarning => { c with earlyWarning := BitVec.ofNat 24 v }
  | .maxTape => { c with maxTape := BitVec.ofNat 24 v }
  | .readRetry => { c with readRetry := BitVec.ofNat 8 v }
  | .rewriteLimit => { c with rewriteLimit := BitVec.ofNat 8 v }
  | .repositionLimit => { c with repositionLimit := BitVec.ofNat 8 v }
  | .landmarkSpacing => { c with landmarkSpacing := BitVec.ofNat 8 v }
  | .standbyDelay => { c with standbyDelay := BitVec.ofNat 8 v }
  | .sleepDeadline => { c with sleepDeadline := BitVec.ofNat 8 v }
  | .mapSelect => { c with mapSelect := BitVec.ofNat 8 v }
  | .partStart p => { c with parts := c.parts.set p { c.parts.get p with start := BitVec.ofNat 24 v } }
  | .partLength p => { c with parts := c.parts.set p { c.parts.get p with length := BitVec.ofNat 24 v } }
  | .partEnabled p => { c with parts := c.parts.set p { c.parts.get p with enabled := v != 0 } }
  | _ => c

/-- Byte k of a value, byte 0 least significant (R2). -/
def valueByte (v k : Nat) : Byte := BitVec.ofNat 8 (v / 256 ^ k)

/-- R16: the value of bytes, lowest first. -/
def bytesValue : List Byte → Nat
  | [] => 0
  | b :: rest => b.toNat + 256 * bytesValue rest

end Sys2Proof.Machine
end

