-- ==== Sys2Proof/Machine/Ops.lean ====
section
/-! DEFINITION. The named operations over the state that the meanings share: reports, banks, map, counters, the hand-over
between controller and Sequencer, the write gate, causes. -/

namespace Sys2Proof.Machine

/-! ### Saturating counters -/

/-- A counter that rises by one and stays at its greatest value (R50, R143, R163). -/
def bump {w : Nat} (v : BitVec w) : BitVec w := if v = BitVec.allOnes w then v else v + 1

/-! ### Host Port flags -/

/-- R7: DATA ERROR is set. -/
def setDataError (s : State) : State := { s with host := { s.host with dataError := true } }

/-- R7, R17: SETUP ERROR is set and LAST SETUP ERROR INDEX loaded. -/
def setSetupError (index : Byte) (s : State) : State :=
  { s with host := { s.host with setupError := true, lastSetupError := index } }

/-- R3: the byte a read drives on D7-D0. -/
def drive (v : Byte) (s : State) : State := { s with host := { s.host with dataOut := v } }

/-! ### Reports -/

/-- R42 to R46: a report with the flags and the position as they stand, all counts 0. FAULT RECORDED is what the recorded
bits show. R46 says that it is always 1 in a report of cause FAULT, R152 that a clear action shows the cleared bits as 0
in later reports: where a clear falls into the stop after a WRITE CHANNEL fault the model follows R152 (DESIGN CHOICE,
log 41). -/
def baseReport (cause : Cause) (s : State) : Report where
  unsolicited := true
  stage := .startChecks
  tag := 0
  code := 0
  cause := cause
  recovered := false
  warning := false
  known := s.place.position.isSome
  lost := false
  dataPending := dataPending s.banks
  part := shownPart s
  faultRecorded := faultRecorded s.health
  residual := 0
  retries := 0
  discarded := 0
  next := logicalBlock s

/-- R50: the LOST flag of the newest stored report is set. -/
def markLost : List Report → List Report
  | [] => []
  | [r] => [{ r with lost := true }]
  | r :: rest => r :: markLost rest

/-- R49, R50: a push onto the Report Queue. -/
def Reports.push (q : Reports) (r : Report) : Reports :=
  if q.stored.length < Config.reportPlaces then
    { q with stored := q.stored ++ [r], lastCause := r.cause, lastTag := r.tag
             readIndex := if q.stored.isEmpty then 0 else q.readIndex }
  else { q with stored := markLost q.stored, overflow := bump q.overflow, lastCause := r.cause, lastTag := r.tag }

/-- R49: a report is pushed. -/
def pushReport (r : Report) (s : State) : State := { s with reports := s.reports.push r }

/-- R54 to R58: an unsolicited report of the state as it stands. -/
def pushUnsolicited (cause : Cause) (s : State) : State := pushReport (baseReport cause s) s

/-- R46: the state as a report of this instant shows it: FAULT RECORDED is taken after a clear action among what else falls
at the instant, `after`. A fault recorded only by that comes later than the report. -/
def cleared (after : State → State) (s : State) : State :=
  { s with health := { s.health with
      recorded := s.health.recorded &&& (after { s with events := [] }).health.recorded } }

/-- R46, R55 to R59: an unsolicited report at an instant at which `after` falls as well. -/
def pushBefore (after : State → State) (cause : Cause) (s : State) : State :=
  pushReport (baseReport cause (cleared after s)) s

/-- R46: FAULT RECORDED 0 in the stored reports beyond the first `kept`. -/
def Reports.unflag (kept : Nat) (q : Reports) : Reports :=
  { q with stored := q.stored.take kept ++ (q.stored.drop kept).map fun r => { r with faultRecorded := false } }

/-- R46: the stored reports beyond the first `kept` are of an instant at which `after` falls as well: their FAULT RECORDED
flags are taken after a clear action among it. -/
def reflag (after : State → State) (kept : Nat) (s : State) : State :=
  if (cleared after s).health.recorded = 0 then { s with reports := s.reports.unflag kept } else s

/-- R59: the Report Queue emptied, as every kind of reset does before its own report. -/
def emptyReports (s : State) : State :=
  { s with reports := { s.reports with stored := [], readIndex := 0, overflow := 0 } }

/-- R48: the head report is removed and the read index returns to 0. -/
def Reports.acknowledge (q : Reports) : Reports :=
  match q.stored with
  | [] => q
  | _ :: rest => { q with stored := rest, readIndex := 0 }

/-! ### Banks -/

/-- R118: a bank is claimed: its age and the claim record are taken, its contents replaced. -/
def Banks.claim (k : Banks) (id : BankId) (v : Bank) : Banks :=
  { k.set id { v with age := k.nextAge } with lastClaim := some id, nextAge := k.nextAge + 1 }

/-- R118: a bank that becomes EMPTY clears its descriptor. -/
def Banks.release (k : Banks) (id : BankId) : Banks := k.set id .cleared

/-- R34: a bank after the discard of write data. -/
def Bank.afterDiscard (v : Bank) : Bank := if v.holdsWrite then .cleared else v

/-- R34: all write data is discarded; read data is kept. -/
def discardWriteData (s : State) : State :=
  { s with banks := { s.banks with a := s.banks.a.afterDiscard, b := s.banks.b.afterDiscard } }

/-- R34: the discard: every waiting order is removed, with all write data. -/
def discard (s : State) : State := discardWriteData { s with seq := { s.seq with queue := [] } }

/-! ### Locator Map (R113, R115) -/

/-- R113: tick order; of two entries with one tick the lower partition comes first. -/
def entryBefore (d e : MapEntry) : Bool :=
  decide (d.origin.toInt < e.origin.toInt) ||
    (d.origin.toInt == e.origin.toInt && decide (d.part.toNat ≤ e.part.toNat))

/-- R113 step 3: an entry placed in tick order. -/
def placeEntry (e : MapEntry) : List MapEntry → List MapEntry
  | [] => [e]
  | d :: rest => if entryBefore d e then d :: placeEntry e rest else e :: d :: rest

/-- R113 step 1: an entry that an insertion of block `n` of `p` at tick `t` removes. -/
def entryConflicts (p : PartNo) (n : BlockNo) (t : Int) (d : MapEntry) : Bool :=
  d.part == p &&
    (d.number == n || (decide (d.number.toNat < n.toNat) && decide (t ≤ d.origin.toInt)) ||
      (decide (n.toNat < d.number.toNat) && decide (d.origin.toInt ≤ t)))

/-- R113 step 2: the smallest use stamp, that of the least recently used entry. -/
def oldestStamp (map : List MapEntry) : Nat :=
  match map.map MapEntry.stamp with
  | [] => 0
  | x :: rest => rest.foldl min x

/-- R113 step 2: the least recently used entry removed if 24 remain. -/
def evict (map : List MapEntry) : List MapEntry :=
  if Config.mapPlaces ≤ map.length then map.filter fun d => d.stamp != oldestStamp map else map

/-- R113: insertion, one step, of either source. -/
def mapInsert (p : PartNo) (n : BlockNo) (t : Int) (source : MapSource) (q : Place) : Place :=
  let kept := evict (q.map.filter fun d => !entryConflicts p n t d)
  { q with
    map := placeEntry { part := p, number := n, origin := BitVec.ofInt 24 t, source := source, stamp := q.mapClock } kept
    mapClock := q.mapClock + 1 }

/-- R105, R113: an entry becomes the most recently used. -/
def mapTouch (p : PartNo) (n : BlockNo) (q : Place) : Place :=
  { q with
    map := q.map.map fun d => if d.part == p && d.number == n then { d with stamp := q.mapClock } else d
    mapClock := q.mapClock + 1 }

/-- R115: truncation at block `n` of `p`. -/
def mapTruncate (p : PartNo) (n : BlockNo) (q : Place) : Place :=
  { q with map := q.map.filter fun d => !(d.part == p && decide (n.toNat ≤ d.number.toNat)) }

/-- R115: clearing. -/
def mapClear (q : Place) : Place := { q with map := [] }

/-! ### Position and reference -/

/-- R97: the logical position takes a value; a KNOWN one only under a VALID reference. -/
def setPosition (p : Option Position) (s : State) : State :=
  { s with place := { s.place with position := if s.motion.refValid then p else none } }

/-- R87, R97: the reference becomes INVALID and the position UNKNOWN in the same step. -/
def loseReference (s : State) : State :=
  { s with motion := { s.motion with refValid := false }, place := { s.place with position := none } }

/-! ### Controller and Sequencer -/

/-- What the controller reads (R74, R89). -/
def ctlEnv (s : State) : CtlEnv := { setup := profile s, bots := s.inputs.bots, eots := s.inputs.eots }

/-- The controller's new state and its events are taken in; a lost reference makes the position UNKNOWN (R97). -/
def handOver (o : Ctl) (s : State) : State :=
  { s with motion := o.motion, events := s.events ++ o.events
           place := { s.place with position := if o.motion.refValid then s.place.position else none } }

/-- R77 step 2, R173: a request that will start a move from STOPPED finds the transport in STANDBY. -/
def endsStandby (q : Request) (s : State) : Bool :=
  s.power.state == .standby && s.motion.state == .stopped && !s.motion.settling &&
    match q with
    | .moveTo t _ => t != s.motion.pos
    | _ => true

/-- R83: the Sequencer hands a move-to, a run or a zeroing seek to the controller; STANDBY ends at it (R173). -/
def ask (q : Request) (s : State) : State :=
  if endsStandby q s then
    let s1 := { s with power := { s.power with state := .active, standbyTimer := 0 } }
    handOver (requestMove (ctlEnv s1) (profile s1).settleDelay.toNat s1.motion q) s1
  else handOver (requestMove (ctlEnv s) 0 s.motion q) s

/-- R83: the Sequencer hands a stop request. -/
def askStop (s : State) : State := handOver (requestStop (profile s) s.motion) s

/-! ### Framer -/

/-- R61, R145: the write gate drops: recording ends where it stands, no verdict is taken. The debounced WRFLT/ keeps its
level; the samples to come count as high (log 13). -/
def dropGate (s : State) : State :=
  { s with framer := { s.framer with writer := .idle, gate := false, fieldBytes := [] } }

/-- R65, R124: a capture cut short gives a bad result: its bank returns to EMPTY. -/
def cutCapture (s : State) : State :=
  match s.framer.capture with
  | none => s
  | some c =>
    { s with framer := { s.framer with capture := none }
             banks := match c.bank with | some id => s.banks.release id | none => s.banks }

/-- R84: a hold of the transport. Moving: the Framer is told, drops the gate and ends any recording and capture. -/
def hold (inhibit : Bool) (s : State) : State :=
  let s1 := handOver (holdMotion inhibit s.motion) s
  if s.motion.moving then cutCapture (dropGate s1) else s1

/-! ### The active order -/

/-- The active order's record changed. -/
def onActive (f : Active → Active) (s : State) : State :=
  { s with seq := { s.seq with active := s.seq.active.map f } }

/-- R52: whether a cause replaces the pending cause. -/
def outranks (c : Cause) (p : Option CauseAt) : Bool :=
  match p with
  | none => true
  | some q => decide (causeRank c < causeRank q.cause)

/-- R52: a cause arises for the active order, with the stage in progress. -/
def raise (c : Cause) (s : State) : State :=
  onActive (fun a => if outranks c a.cause then { a with cause := some { cause := c, stage := a.stage } } else a) s

/-- The active order's phase and stage. -/
def setPhase (phase : Phase) (stage : Stage) (s : State) : State :=
  onActive (fun a => { a with phase := phase, stage := stage }) s

/-- The final position that the order's ending gives (R97). -/
def setFinal (p : Option (Option Position)) (s : State) : State := onActive (fun a => { a with final := p }) s

/-- R38, R156: the cause that takes effect at a safe point. -/
def stopCause (a : Active) : Cause := if a.lockPending then .lockedOut else .halted

end Sys2Proof.Machine
end

