-- ==== Sys2Proof/Machine/Ending.lean ====
section
/-! DEFINITION. The ending of an order (R33, R34, R37, R43 to R46) and what the Health Monitor does to orders and to
the controller (R147 to R152). -/

namespace Sys2Proof.Machine

/-! ### Residual and report of an ending -/

/-- R108, R110: the next block that a SPACE order's Residual is reckoned from: the final position's, or the landmark's where
the final position is UNKNOWN (log 28). -/
def residualNext (s : State) (a : Active) : Int :=
  match s.place.position with
  | some p => p.next.toNat
  | none =>
    match a.scan.landmark with
    | some p => p.next.toNat
    | none => 0

/-- R108, R110: the Residual of a SPACE BLOCKS. -/
def spaceResidual (s : State) (a : Active) : Nat :=
  if 0 < paramSpace a.entry.params then (a.scan.target - residualNext s a).toNat
  else (residualNext s a - a.scan.target).toNat

/-- R37: the work an order left undone, the order having passed its start checks when `stage` is not 0. -/
def residualOf (s : State) (a : Active) (k : OrderKind) (stage : Stage) : Nat :=
  match k with
  | .readBlocks => paramCount a.entry.params - a.stream.done
  | .verifyBlocks => paramCount a.entry.params - a.stream.done
  | .writeBlocks => paramCount a.entry.params - a.stream.done
  | .writeFences => paramCount a.entry.params - a.stream.done
  | .spaceBlocks => if stage = .startChecks then (paramSpace a.entry.params).natAbs else spaceResidual s a
  | .spaceFences => (paramSpace a.entry.params).natAbs - a.scan.fences
  | .moveRaw =>
    min 65535
      (if stage = .startChecks then (paramTicks a.entry.params).natAbs else (a.scan.target - s.motion.pos).natAbs)
  | _ => 0

/-- R37: the Residual field. A SUCCESS carries 0; a PARAM ERROR or an ILLEGAL ORDER has no trusted count. -/
def residual (s : State) (a : Active) (c : CauseAt) : Nat :=
  match c.cause with
  | .success => 0
  | .paramError => 0
  | .illegalOrder => 0
  | _ =>
    match a.kind with
    | some k => residualOf s a k c.stage
    | none => 0

/-- The cause and stage an ending reports (R36): SUCCESS always carries stage 5. -/
def endCause (a : Active) : CauseAt :=
  match a.cause with
  | none => { cause := .success, stage := .done }
  | some c => if c.cause = .success then { cause := .success, stage := .done } else c

/-- R43: the report of a queued order's ending; `n` is the number of orders discarded. -/
def endReport (s : State) (a : Active) (n : Nat) : Report :=
  let c := endCause a
  { baseReport c.cause s with
    unsolicited := false
    stage := c.stage
    tag := a.entry.tag
    code := a.entry.code
    recovered := a.stream.recovered && a.isStream
    warning := a.stream.warning && a.isWrite
    residual := BitVec.ofNat 16 (residual s a c)
    retries := BitVec.ofNat 4 (min 15 a.stream.retries)
    discarded := BitVec.ofNat 4 n }

/-! ### Health -/

/-- R147: the fault bits follow the conditions that hold. -/
def faultBits (s : State) : State :=
  let p := presentFor s.health (conditions s)
  { s with health := { s.health with present := p, recorded := s.health.recorded ||| p } }

/-- R151, R173: the fault-driven motion inhibit sets in or lifts at the controller; its onset ends STANDBY. -/
def inhibitController (s : State) : State :=
  if s.health.motionFault then
    if s.motion.state = .inhibited then s
    else
      let s1 := hold true s
      { s1 with power := { s1.power with state := (if s1.power.state = .standby then .active else s1.power.state)
                                         standbyTimer := 0 } }
  else { s with motion := liftInhibit s.motion }

/-- R101, R102, R94: what the ending of a LOAD or an UNLOAD does to the cartridge state, the map and the reference. -/
def endCartridge (a : Active) (s : State) : State :=
  if s.place.cart = .loading then { s with place := { s.place with cart := .inserted } }
  else if a.kind = some .unload ∧ (endCause a).cause = .success then
    loseReference { s with place := { (mapClear s.place) with cart := .inserted } }
  else s

/-- R33, R83, R92: a request that the controller still serves at rest is stopped, so that none outlives the order; its
stopped-at carries overshoot 0. -/
def endRequest (s : State) : State :=
  if s.motion.waitingAtRest then handOver (stopAtRest s.motion false) s else s

/-- R97: the final position is taken where the ending gives one. -/
def takeFinal (a : Active) (s : State) : State :=
  match a.final with
  | none => s
  | some p => setPosition p s

/-- R34: the discard of an ending with a cause other than SUCCESS. -/
def endDiscard (a : Active) (s : State) : State := if (endCause a).cause = .success then s else discard s

/-- R34: the Discarded field of an ending. -/
def discardedBy (a : Active) (s : State) : Nat := if (endCause a).cause = .success then 0 else s.seq.queue.length

/-- R33 step 4: the active order slot is emptied and HALT-pending cleared. -/
def clearActive (s : State) : State := { s with seq := { s.seq with active := none, haltPending := false } }

/-- R33: the ending of the active order, in one step. The start conditions are checked by `settle`. -/
def finish (s : State) : State :=
  match s.seq.active with
  | none => s
  | some a =>
    let s1 := endCartridge a (takeFinal a (endRequest s))
    let s2 := pushReport (endReport (endDiscard a s1) a (discardedBy a s1)) (endDiscard a s1)
    inhibitController (faultBits (clearActive s2))

/-- R100: the final position of a positioning order ended at rest in the stage in progress; a streaming order keeps its
running position (R130, R141). -/
def haltFinal (a : Active) : Option (Option Position) :=
  if a.isStream then none
  else
    match a.stage with
    | .scan => some a.scan.landmark
    | .settle => a.final
    | _ => some none

/-- R39, R53, R96, R150: a cause that ends the active order at once, at rest or at its hold's rest: the gate drops, the cause
and the final position stand, and the order ends when all that falls at this instant has acted. -/
def cutShort (c : Cause) (s : State) : State :=
  match s.seq.active with
  | none => s
  | some a =>
    let s1 := setFinal (haltFinal a) (raise c (cutCapture (dropGate s)))
    { s1 with events := s1.events ++ [.orderEnds] }

/-- An order that has been cut short has still to end. -/
def cutStands (s : State) : Bool := s.events.contains .orderEnds

/-! ### Fault onset -/

/-- R49, R56: the FAULT ONSET reports of the bits newly recorded, in the order of the bits. -/
def onsetReports (new : BitVec 6) (s : State) : State :=
  [0, 1, 2, 3, 4, 5].foldl (fun t i => if new.getLsbD i then pushUnsolicited .faultOnset t else t) s

/-- R141, R142: the position a write-class order is left in when the gate drops while it records: before the lowest
number not verified good, at the slot where it was being recorded; during the erase, before the END. -/
def cutWritePosition (s : State) (a : Active) : Option Position :=
  match s.framer.writer with
  | .recording r => some { part := a.part, next := r.number, slot := r.origin, eod := false }
  | .verdict r => some { part := a.part, next := r.number, slot := r.origin, eod := false }
  | _ => s.place.position

/-- R141, R151: the onset of the write inhibit with the gate on: the gate drops at once, the order stops under control
with FAULT and records no END. -/
def writeInhibitOnset (s : State) : State :=
  match s.seq.active with
  | none => dropGate s
  | some a =>
    askStop (setPhase .ending .settle
      (raise .fault (dropGate (setPosition (cutWritePosition s a) s))))

/-- R150, R151: the inhibits are handed to the blocks that obey them, after the bits have been set. -/
def applyInhibits (s : State) : State :=
  let s1 :=
    if s.health.motionFault && s.motion.state != .inhibited then
      if s.seq.active.isSome then cutShort .fault (inhibitController s) else inhibitController s
    else inhibitController s
  if s1.health.writeFault && s1.framer.gate then writeInhibitOnset s1 else s1

/-- R147 to R151, R56: the Health Monitor's reaction in one step to any change of levels, mask, latch or cartridge
state, with another report of that step, `first`, before its own (R49). Reports of newly recorded faults are pushed
only with no order active, and none while RST/ is low (R158). -/
def judgeAfter (first : State → State) (s : State) : State :=
  let s1 := faultBits s
  let new := s1.health.recorded &&& ~~~s.health.recorded
  let s2 := first (applyInhibits s1)
  if s.seq.active.isSome || s.inputs.rstLow then s2 else onsetReports new s2

/-- The Health Monitor's reaction alone. -/
def judge (s : State) : State := judgeAfter id s

/-- R152: a clear action: latches whose condition no longer holds, then the recorded bits of faults not present. No
event is handed. -/
def clearAction (s : State) : State :=
  let kept := s.health.present &&& (staticFaults ||| (latchedFaults &&& conditions s))
  inhibitController { s with health := { s.health with present := kept, recorded := s.health.recorded &&& kept } }

/-- R154: the partial clear at a motion order's departure, while FAULT RECOVERY is AUTO. -/
def autoClear (k : OrderKind) (s : State) : State :=
  if s.health.autoRecovery && k.isMotion then
    let drop : BitVec 6 :=
      (if s.inputs.drvflt.level then driverBit else 0) ||| stallBit ||| (if k.isWrite then writeChannelBit else 0)
    inhibitController { s with health := { s.health with present := s.health.present &&& ~~~drop } }
  else s

/-- R84, R92: what a rest of the controller `m` hands when a hold falls on its step: the one stopped-at with the held mark,
also where a pending request would have started there. -/
def heldEvent (m : Motion) (e : MotionEvent) : MotionEvent :=
  match e with
  | .stoppedAt t o _ => .stoppedAt t o true
  | .restart => .stoppedAt m.tick m.overshoot true
  | e => e

/-- R84, R91, R92: the hold of a stall falls on a step that came to rest. Where a request that the Sequencer made on that step
brought the rest, R92 has the request come after the stall, so the hold finds the transport moving. At the rest of a
planned arrival or of another stop R91 does not say what it finds: the model takes it as moving there too (DESIGN CHOICE,
log 42). The reference and any pending request are lost. -/
def stalledAtRest (s : State) : State :=
  loseReference { s with
    motion := { s.motion with request := none, waiting := none, seek := .none }
    events := s.events.map (heldEvent s.motion) }

/-- R91, R147: STALL latches; a rest that the stalled step came to is a hold's. -/
def latchStall (s : State) : State :=
  let s0 := if s.motion.moving then s else stalledAtRest s
  { s0 with health := { s0.health with present := s0.health.present ||| stallBit
                                       recorded := s0.health.recorded ||| stallBit } }

/-- R91, R148: STALL is masked, so a stall is not detected. -/
def stallMasked (s : State) : Bool := s.health.mask &&& stallBit != 0#6

/-- R91: the stall handed to the Health Monitor: unmasked, STALL latches and the hold follows; masked, nothing follows. On
a step on which an own condition arises as well, the order has entered stage 4 when the stall strikes (DESIGN CHOICE,
log 42). -/
def stallFault (s : State) : State :=
  if stallMasked s then s
  else
    let s1 := latchStall s
    let s2 := applyInhibits s1
    if s.seq.active.isSome || s.inputs.rstLow then s2
    else onsetReports (s1.health.recorded &&& ~~~s.health.recorded) s2

end Sys2Proof.Machine
end

