-- ==== Sys2Proof/Machine/Checks.lean ====
section
/-! DEFINITION. Start conditions and start checks of a waiting order (R27, R29, R30), and the active order it becomes. -/

namespace Sys2Proof.Machine

/-- R30: check 3: the transport is in the state the order needs. -/
def stateOk (s : State) (k : OrderKind) : Bool :=
  match k with
  | .mark => true
  | .clearMap => true
  | .load => s.place.cart == .inserted
  | _ => s.place.cart == .loaded && (!k.needsKnown || s.place.position.isSome)

/-- R30: the partition the order works in, which check 8 tests for enabled. -/
def orderPart (s : State) (k : OrderKind) (params : List Byte) : PartNo :=
  match k with
  | .load => 0
  | .rewind => paramPart params
  | .locate => paramPart params
  | _ => shownPart s

/-- R29: check 5: an inhibit that forbids the order. -/
def inhibited (s : State) (k : OrderKind) : Bool :=
  (k.isMotion && s.health.motionFault) || (k.isWrite && s.health.writeFault)

/-- R29: check 6: the write-protect latch or the supervisor's WRITE LOCK forbids the order. -/
def writeForbidden (s : State) (k : OrderKind) : Bool := k.isWrite && (s.place.wpLatch || s.health.writeLock)

/-- R29: check 8: the table is valid and the partition enabled. -/
def boundsOk (s : State) (c : Setup) (k : OrderKind) (params : List Byte) : Bool :=
  !k.usesBounds || (tableValid c && (c.parts.get (orderPart s k params)).enabled)

/-- R29: checks 2 to 8 of a known code, in their order; the first that fails gives the cause. -/
def knownCheck (s : State) (c : Setup) (k : OrderKind) (params : List Byte) : Option Cause :=
  if !paramsOk k params then some .paramError
  else if !stateOk s k then some .illegalState
  else if k.isMotion && s.health.lockout then some .lockedOut
  else if inhibited s k then some .fault
  else if writeForbidden s k then some .writeProtected
  else if k.isMotion && !profileConsistent c then some .profileInvalid
  else if !boundsOk s c k params then some .partitionInvalid
  else none

/-- R29: the start checks of an entry against a snapshot. -/
def startCheck (s : State) (c : Setup) (e : QueueEntry) : Option Cause :=
  match orderKind e.code with
  | none => some .illegalOrder
  | some k => knownCheck s c k e.params

/-- R27: conditions (b) to (d) for an entry, `reports` being the reports that stand; nothing departs while RST/ is
low (R180). -/
def mayStart (s : State) (reports : Nat) (e : QueueEntry) : Bool :=
  decide (reports ≤ Config.departReports) && !sleepSeen s && !s.inputs.rstLow &&
    !((orderKind e.code).any OrderKind.isWrite && s.banks.anyRead)

/-- The streaming counts of an order that has done nothing. -/
def Stream.fresh : Stream where
  done := 0
  retry := 0
  copySeen := false
  retries := 0
  recovered := false
  rewrites := 0
  confFails := 0
  warning := false
  recorded := false
  confirmAt := none
  slot := 0
  endUse := .finish
  resume := .atOnce

/-- The scan of an order that has scanned nothing. -/
def Scan.fresh : Scan where
  origin := 0
  number := 0
  target := 0
  landmark := none
  fences := 0
  taken := false
  earliest := 0
  fixed := false
  ends := []

/-- R28: the active order an entry becomes, with its setup snapshot (R31), in stage 0. -/
def newActive (s : State) (e : QueueEntry) : Active where
  entry := e
  snap := s.setup
  phase := .ending
  stage := .startChecks
  cause := none
  lockPending := false
  part := match orderKind e.code with | some k => orderPart s k e.params | none => 0
  departed := s.place.position
  final := none
  gap := 0
  scan := .fresh
  stream := .fresh

/-- R28: the head leaves the Order Queue and enters the active order slot; the standby timer stops (R173). -/
def activate (e : QueueEntry) (rest : List QueueEntry) (s : State) : State :=
  { s with seq := { s.seq with queue := rest, active := some (newActive s e) }
           power := { s.power with standbyTimer := 0 } }

/-- R28, R154: the automatic latch clears at the departure of an entry. -/
def autoClearEntry (e : QueueEntry) (s : State) : State :=
  match orderKind e.code with
  | some k => autoClear k s
  | none => s

/-- R35: the same class of streaming order: reading after reading, writing after writing. -/
def sameStream (a : Active) (e : QueueEntry) : Bool :=
  ((orderKind e.code).any OrderKind.isRead && a.isRead) || ((orderKind e.code).any OrderKind.isWrite && a.isWrite)

/-- R35: whether the head continues the active order at its block boundary, the ending order's cause being SUCCESS. -/
def continues (s : State) (a : Active) (e : QueueEntry) : Bool :=
  sameStream a e && !stopWanted s a && mayStart s (s.reports.stored.length + 1) e &&
    (startCheck s s.setup e).isNone && sameProfile s.setup a.snap

/-- R35: the ending order ends with SUCCESS while the transport moves, and the head departs in the same step. -/
def handOverOrder (e : QueueEntry) (s : State) : State :=
  let s1 := finish (raise .success s)
  autoClearEntry e (activate e s1.seq.queue.tail s1)

end Sys2Proof.Machine
end

