-- ==== Sys2Proof/Machine/Writer.lean ====
section
/-! DEFINITION. Writing (chapter 7.3): recording blocks and ENDs, the fit check, verdicts, rewrites, the reposition
cycle, append confirmation, the erase. -/

namespace Sys2Proof.Machine

/-! ### Stopping -/

/-- R38, R156: the stop that waits takes effect as a cause, in the stage in progress. -/
def raiseStop (s : State) : State :=
  match s.seq.active with
  | none => s
  | some a => if stopWanted s a then raise (stopCause a) s else s

/-- R125, R130, R137: the order enters stage 4 and stops; it ends at the rest. A HALT or lockout that still waits takes
effect with this stop (R38, R52). -/
def stopToEnd (s : State) : State := askStop (setPhase .ending .settle (raiseStop s))

/-- R52, R137: an own condition of a streaming order arises, in the stage in progress; the order stops and ends. -/
def streamEnds (c : Cause) (s : State) : State := stopToEnd (raise c s)

/-! ### The reposition cycle (R127) -/

/-- R127 step 1, R143: a reposition cycle begins: it is counted once, and the transport stops. -/
def reposition (resume : Resume) (s : State) : State :=
  let s1 := { s with banks := { s.banks with repositions := bump s.banks.repositions } }
  askStop (onActive (fun a => { a with
    phase := .repStop, stage := .scan, stream := { a.stream with retries := a.stream.retries + 1, resume := resume } }) s1)

/-- R127: the slot a cycle returns to: a reading order's running slot origin, a write's append slot. -/
def cycleSlot (s : State) (a : Active) : Int :=
  if a.isWrite then a.stream.slot else (s.place.position.map Position.slot).getD 0

/-- R127 step 3: the cycle's resume condition. -/
def resumeReady (s : State) (a : Active) : Bool :=
  match a.stream.resume with
  | .atOnce => true
  | .emptyBank => s.banks.toClaim.isSome
  | .fullWriteBank => (s.banks.fullFor a.entry.tag).isSome

/-! ### Recording -/

/-- R60: the end of a block being recorded. -/
def Recording.blockEnd (r : Recording) : Int := r.origin + footprint r.kind r.lengthCode

/-- R133: whether a block that ends at a tick passes the early-warning distance. -/
def passesWarning (c : Setup) (p : PartNo) (stop : Int) : Bool :=
  decide (partEnd c p - c.earlyWarning.toNat < stop)

/-- R133: the fit check: the block and an END after it fit before the partition end. -/
def fits (c : Setup) (r : Recording) : Bool :=
  decide (r.blockEnd + Config.endTicks ≤ partEnd c r.part)

/-- R133, R139: an END alone fits before the partition end. -/
def endFits (c : Setup) (p : PartNo) (t : Int) : Bool := decide (t + Config.endTicks ≤ partEnd c p)

/-- R115, R133: the first thing an order records truncates the map at its number; a block or END beyond the
early-warning distance sets the mark. R46 says "wrote": one cut short before its end counts too, for the model sets the mark
as the recording begins (DESIGN CHOICE, log 41). -/
def noteRecorded (a : Active) (r : Recording) (s : State) : State :=
  let s1 := if a.stream.recorded then s else { s with place := mapTruncate r.part r.number s.place }
  onActive (fun b => { b with stream := { b.stream with
    recorded := true, warning := b.stream.warning || passesWarning a.snap r.part r.blockEnd } }) s1

/-- R61, R149: the writer begins to record at the gap; the gate is raised unless the write inhibit is in force. -/
def beginRecording (r : Recording) (s : State) : State :=
  { s with framer := { s.framer with writer := .recording r, gate := !s.health.writeFault, fieldBytes := [] } }

/-- R118, R133: the bank that supplies a block becomes ON TAPE and takes its number and copy. -/
def Banks.putOnTape (k : Banks) (r : Recording) : Banks :=
  match r.bank with
  | none => k
  | some id =>
    k.set id { k.get id with state := .onTape, part := r.part, number := r.number, kind := r.kind, copy := r.copy }

/-- R133: a block that passes the fit check is recorded; the running position is before it at its slot. -/
def recordBlock (a : Active) (r : Recording) (s : State) : State :=
  let s1 := noteRecorded a r { s with banks := s.banks.putOnTape r }
  beginRecording r
    (setPosition (some { part := r.part, next := r.number, slot := r.origin, eod := false }) s1)

/-- R137: an END is recorded at a slot. One recorded to end the order belongs to stage 4. -/
def recordEnd (use : EndUse) (t : Int) (n : BlockNo) (s : State) : State :=
  match s.seq.active with
  | none => s
  | some a =>
    let r : Recording :=
      { kind := .endMark, origin := t, part := a.part, number := n, lengthCode := 0, copy := 0, bank := none }
    let s1 := onActive (fun b => { b with stream := { b.stream with endUse := use } }) (noteRecorded a r s)
    beginRecording r (if use = .finish then setPhase .write .settle s1 else s1)

/-- R133, R139: nothing fits at the very first slot: nothing is recorded, the position is as at departure. -/
def noRoom (a : Active) (s : State) : State :=
  streamEnds .partitionFull (setPosition a.departed (dropGate s))

/-- R133: the fit check decides between the block, an END in its place, and nothing at all. -/
def recordOrFull (a : Active) (r : Recording) (s : State) : State :=
  if fits a.snap r then recordBlock a r s
  else if !a.stream.recorded && !endFits a.snap r.part r.origin then noRoom a s
  else recordEnd .finish r.origin r.number (raise .partitionFull s)

/-- R135 to R139: the next slot, at tick `t`, takes the order's next block: data, a FENCE, or the END of an erase. A
WRITE BLOCKS without a FULL WRITE bank meets write starvation there. -/
def startBlock (t : Int) (s : State) : State :=
  match s.seq.active with
  | none => s
  | some a =>
    let n := logicalBlock s
    match a.kind with
    | some .writeBlocks =>
      match s.banks.fullFor a.entry.tag with
      | none => recordEnd .starve t n s
      | some id =>
        recordOrFull a { kind := .data, origin := t, part := a.part, number := n,
                         lengthCode := paramLength a.entry.params, copy := 0, bank := some id } s
    | some .writeFences =>
      recordOrFull a { kind := .fence, origin := t, part := a.part, number := n,
                       lengthCode := 0, copy := 0, bank := none } s
    | some .eraseRemainder => if endFits a.snap a.part t then recordEnd .erase t n s else noRoom a s
    | _ => s

/-! ### Verdicts -/

/-- R135: a block verified good: its bank is released, it counts as done, the position moves past it. -/
def blockDone (r : Recording) (s : State) : State :=
  let s1 := { s with banks := match r.bank with | some id => s.banks.release id | none => s.banks }
  let s2 := onActive (fun a => { a with stream := { a.stream with
    done := a.stream.done + 1
    recovered := a.stream.recovered || decide (0 < a.stream.rewrites)
    rewrites := 0 } }) s1
  setPosition (some { part := r.part, next := nextNumber r.number, slot := r.blockEnd, eod := false }) s2

/-- R35, R137: the block boundary of a write whose work is complete: the head continues, or the END is recorded. -/
def writeBoundary (a : Active) (t : Int) (s : State) : State :=
  match s.seq.queue with
  | [] => recordEnd .finish t (logicalBlock s) (raise .success s)
  | e :: _ =>
    if continues s a e then
      startBlock t (onActive (fun b => { b with stream := { b.stream with slot := t } })
        (setPhase .write .scan (handOverOrder e s)))
    else recordEnd .finish t (logicalBlock s) (raise .success s)

/-- R135, R140: a good verdict. -/
def goodVerdict (a : Active) (r : Recording) (s : State) : State :=
  let s1 := blockDone r s
  if stopWanted s a then recordEnd .finish r.blockEnd (logicalBlock s1) (raiseStop s1)
  else if paramCount a.entry.params ≤ a.stream.done + 1 then writeBoundary a r.blockEnd s1
  else startBlock r.blockEnd s1

/-- R135, R143: a rewrite is counted. -/
def countRewrite (s : State) : State :=
  onActive (fun a => { a with stream := { a.stream with
    rewrites := a.stream.rewrites + 1, retries := a.stream.retries + 1 } })
    { s with banks := { s.banks with retries := bump s.banks.retries } }

/-- R135, R140: a bad verdict. The fit check of a rewrite applies before it is counted (log 24). -/
def badVerdict (a : Active) (r : Recording) (s : State) : State :=
  let again : Recording := { r with origin := r.blockEnd, copy := r.copy + 1 }
  if stopWanted s a then recordEnd .finish r.blockEnd r.number (raiseStop s)
  else if a.stream.rewrites < a.snap.rewriteLimit.toNat then
    if fits a.snap again then recordBlock a again (countRewrite s)
    else recordEnd .finish r.blockEnd r.number (raise .partitionFull s)
  else recordEnd .finish r.blockEnd r.number (raise .writeFailed s)

/-- R134: the verdict of the block that awaits one. -/
def onVerdict (good : Bool) (s : State) : State :=
  match s.seq.active, s.framer.writer with
  | some a, .verdict r => if good then goodVerdict a r s else badVerdict a r s
  | _, _ => s

/-! ### END marks and the erase -/

/-- R139 steps 5 to 7: at the partition end the gate drops and the order stops, to move back to the END. -/
def eraseDone (s : State) : State := askStop (setPhase .stopping .settle (dropGate s))

/-- R139: a HALT or lockout during the erase: the gate drops, the order stops and ends before the END. -/
def eraseStopped (s : State) : State := stopToEnd (dropGate s)

/-- R136, R137, R139, R140: the trailer of an END has ended: the position is before it with EOD set. -/
def endComplete (r : Recording) (s : State) : State :=
  match s.seq.active with
  | none => s
  | some a =>
    let s1 := setPosition (some { part := r.part, next := r.number, slot := r.origin, eod := true }) s
    match a.stream.endUse with
    | .finish => stopToEnd (dropGate s1)
    | .starve =>
      if stopWanted s a then stopToEnd (dropGate s1)
      else reposition .fullWriteBank
        (onActive (fun b => { b with stream := { b.stream with slot := r.origin } }) (dropGate s1))
    | .erase =>
      let s2 := setPhase .erase .scan { s1 with framer := { s1.framer with writer := .erasing, fieldBytes := [] } }
      if stopWanted s a then eraseStopped s2 else s2

/-- R61: the bytes handed to the front end as the head enters a field: header, data field, trailer (log 30). The CRC
engines hold what they have computed (R63, R65). -/
def enterField (r : Recording) (s : State) : State :=
  let d := s.motion.pos - r.origin
  let data : List Byte := match r.bank with | some id => (s.banks.get id).data | none => []
  let ticks : Int := match r.kind with | .data => (dataLength r.lengthCode / 8 : Nat) | _ => 0
  let content := recordedContent r
  let check : BitVec 32 := match r.kind with | .data => dataCheck data | _ => 0
  if d = Config.gapTicks then
    { s with framer := { s.framer with fieldBytes := headerBytes content, headerCrc := headerCheck content } }
  else if d = Config.headerEndTicks + ticks then
    { s with framer := { s.framer with
        fieldBytes := trailerBytes check
        dataCrc := match r.kind with | .data => dataCrcReg data | _ => s.framer.dataCrc } }
  else if d = Config.headerEndTicks then { s with framer := { s.framer with fieldBytes := data } }
  else s

/-- R61, R134, R137: the head has reached the end of what is being recorded. -/
def recordingDone (r : Recording) (s : State) : State :=
  match r.kind with
  | .endMark => endComplete r s
  | _ => { s with framer := { s.framer with writer := .verdict r, fieldBytes := [] } }

/-- R134: the verdict window closes at the block's end plus 24 ticks. -/
def closeWindow (s : State) : State :=
  match s.framer.writer with
  | .verdict r => if r.blockEnd + Config.gapTicks ≤ s.motion.pos then onVerdict false s else s
  | _ => s

/-- R61: the writer after a step: fields, the end of a block, the verdict window, the end of an erase (R139). -/
def writerStep (s : State) : State :=
  let s1 := closeWindow s
  let s2 :=
    match s1.framer.writer with
    | .recording r => if r.blockEnd ≤ s1.motion.pos then recordingDone r s1 else enterField r s1
    | _ => s1
  match s2.framer.writer, s2.seq.active with
  | .erasing, some a => if partEnd a.snap a.part ≤ s2.motion.pos then eraseDone s2 else s2
  | _, _ => s2

/-! ### Append confirmation (R131, R132) -/

/-- R131: the append point is confirmed at a tick: writing begins there. -/
def confirmed (t : Int) (s : State) : State :=
  let s1 := onActive (fun a => { a with
    phase := .write, stream := { a.stream with confFails := 0, confirmAt := none } }) s
  startBlock t (setPosition (s1.place.position.map fun p => { p with slot := t }) s1)

/-- R132: a confirmation fails: another cycle below REPOSITION LIMIT, POSITION LOST at it. -/
def confirmFailed (a : Active) (s : State) : State :=
  if a.stream.confFails < a.snap.repositionLimit.toNat then
    reposition .atOnce (onActive (fun b => { b with stream := { b.stream with
      confFails := b.stream.confFails + 1, confirmAt := none } }) s)
  else streamEnds .positionLost (setPosition none s)

/-- R131: the seek for the append point after a step. -/
def confirmStep (a : Active) (s : State) : State :=
  let ready := atStreamRate s.motion a.snap
  if logicalBlock s = 0 then
    if a.stream.slot ≤ s.motion.pos then
      if s.motion.pos = a.stream.slot ∧ ready then confirmed a.stream.slot s else confirmFailed a s
    else s
  else
    match a.stream.confirmAt with
    | some t => if t ≤ s.motion.pos then (if s.motion.pos = t ∧ ready then confirmed t s else confirmFailed a s) else s
    | none => if a.stream.slot + (Config.confirmTicks + 1 : Nat) ≤ s.motion.pos then confirmFailed a s else s

/-- R131: a good header that names the append point: DATA or FENCE of p, numbered N − 1 or N, whose end lies within 4
ticks of the slot. -/
def confirms (s : State) (a : Active) (h : Header) : Bool :=
  let n := logicalBlock s
  h.kind != .endMark && h.part == a.part && n != 0 && (h.number == n || h.number == n - 1) &&
    decide (a.stream.slot - Config.confirmTicks ≤ h.blockEnd) && decide (h.blockEnd ≤ a.stream.slot + Config.confirmTicks)

/-- R131: a header met while the append point is sought. -/
def confirmHeader (a : Active) (h : Header) (s : State) : State :=
  if confirms s a h then
    onActive (fun b => { b with stream := { b.stream with confirmAt := some h.blockEnd } }) s
  else s

end Sys2Proof.Machine
end

