-- ==== Sys2Proof/Machine/Reading.lean ====
section
/-! DEFINITION. Reading headers: the forward sequence rule, learning, the streams of READ BLOCKS and VERIFY BLOCKS and
the scans of the positioning orders (R64, R66, R72, R106 to R112, R114, R123 to R130). -/

namespace Sys2Proof.Machine

/-! ### The forward sequence rule (R72) -/

/-- The classes of R72, by row. -/
inductive SeqRow where
  /-- Rows 1 and 6. -/
  | broken
  /-- Row 2. -/
  | expected
  /-- Row 3. -/
  | previous
  /-- Row 4. -/
  | endHere
  /-- Row 5. -/
  | missed
  deriving DecidableEq, Repr

/-- R72: the row of a good header in partition `p` while block `n` is expected. -/
def seqRow (c : Setup) (p : PartNo) (n : BlockNo) (h : Header) : SeqRow :=
  if h.part != p || !inRegion c p h.origin then .broken
  else if h.kind != .endMark && h.number == n then .expected
  else if h.kind != .endMark && n != 0 && h.number == n - 1 then .previous
  else if h.kind == .endMark && h.number == n then .endHere
  else if n.toNat < h.number.toNat then .missed
  else .broken

/-- A KNOWN position before a block at a slot (R97). -/
def before (p : PartNo) (n : BlockNo) (slot : Int) (eod : Bool) : Option Position :=
  some { part := p, next := n, slot := slot, eod := eod }

/-! ### Learning (R114) -/

/-- R114: an END decoded during the order is remembered by its partition and lowest origin. -/
def noteEnd (h : Header) (seen : List EndSeen) : List EndSeen :=
  if h.kind != .endMark then seen
  else if seen.any fun e => e.part == h.part && decide (e.origin ≤ h.origin) then seen
  else { part := h.part, origin := h.origin } :: seen.filter fun e => e.part != h.part

/-- R114, fifth condition: an END of the partition lies below the header, or the position at departure was at one. -/
def beyondEnd (a : Active) (h : Header) : Bool :=
  (a.scan.ends.any fun e => e.part == h.part && decide (e.origin < h.origin)) ||
    a.departed.any fun p => p.eod && p.part == h.part && decide (p.slot ≤ h.origin)

/-- R114, sixth condition: every entry of the partition differs by at least LANDMARK SPACING. -/
def spaced (c : Setup) (map : List MapEntry) (h : Header) : Bool :=
  map.all fun d => d.part != h.part || decide (c.landmarkSpacing.toNat ≤ ((d.number.toNat : Int) - h.number.toNat).natAbs)

/-- R106, R112: the header is the block that a LOCATE's scan seeks, and it is found by it. -/
def locateTarget (a : Active) (h : Header) : Bool :=
  a.kind == some .locate && a.phase == .scan && decide (a.scan.origin ≤ h.origin) && h.part == a.part &&
    inRegion a.snap a.part h.origin && h.kind != .endMark && decide ((h.number.toNat : Int) = a.scan.target)

/-- R114: whether a good header is inserted as LEARNED; the target of a LOCATE needs no spacing (R106). -/
def teaches (s : State) (a : Active) (h : Header) : Bool :=
  s.motion.refValid && a.kind.any OrderKind.learns && h.kind != .endMark && (a.snap.parts.get h.part).enabled &&
    inRegion a.snap h.part h.origin && !beyondEnd a h && (spaced a.snap s.place.map h || locateTarget a h)

/-- R114: a good header teaches the map, and an END is remembered. -/
def learn (h : Header) (s : State) : State :=
  match s.seq.active with
  | none => s
  | some a =>
    let s1 := if teaches s a h then { s with place := mapInsert h.part h.number h.origin .learned s.place } else s
    onActive (fun b => { b with scan := { b.scan with ends := noteEnd h b.scan.ends } }) s1

/-! ### Own conditions of positioning orders -/

/-- R106, R107, R109: an own condition with its final position: a controlled stop, then parking where the position is
KNOWN and the cause is not BOUNDARY. -/
def scanEnds (c : Cause) (final : Option Position) (s : State) : State :=
  let park := final.isSome && c != .boundary
  askStop (setPhase (if park then .stopping else .ending) .settle (setFinal (some final) (raise c s)))

/-- A block passed by a forward scan: the scan expects the next one, and the landmark stands behind it (R106, R107). -/
def passBlock (a : Active) (h : Header) (s : State) : State :=
  onActive (fun b => { b with scan := { b.scan with
    number := nextNumber h.number, landmark := before a.part (nextNumber h.number) h.blockEnd false } }) s

/-- R106: a good header in the scan of a LOCATE. -/
def locateHeader (a : Active) (h : Header) (s : State) : State :=
  if h.origin < a.scan.origin then s
  else if partEnd a.snap a.part ≤ h.origin then scanEnds .notFound none s
  else if h.part != a.part then scanEnds .sequenceBreak a.scan.landmark s
  else if h.kind == .endMark then scanEnds .endOfData (before a.part h.number h.origin true) s
  else if (h.number.toNat : Int) = a.scan.target then scanEnds .success (before a.part h.number h.origin false) s
  else if a.scan.target < h.number.toNat then scanEnds .notFound (before a.part h.number h.origin false) s
  else passBlock a h s

/-! ### Forward header-only scans (R107, R108, R111, R112) -/

/-- R107: a FENCE or DATA header taken by a forward SPACE BLOCKS (R108). -/
def spaceBlocksTake (a : Active) (h : Header) (s : State) : State :=
  if (h.number.toNat : Int) = a.scan.target then scanEnds .success (before a.part h.number h.origin false) s
  else if a.scan.target < h.number.toNat then scanEnds .notFound (before a.part h.number h.origin false) s
  else if h.kind == .fence then scanEnds .fence (before a.part (nextNumber h.number) h.blockEnd false) s
  else passBlock a h s

/-- R108: an END of row 4 or row 5 met by a forward SPACE BLOCKS. -/
def spaceBlocksEnd (a : Active) (h : Header) (s : State) : State :=
  if a.scan.target < h.number.toNat then scanEnds .notFound (before a.part h.number h.origin true) s
  else scanEnds .endOfData (before a.part h.number h.origin true) s

/-- R111: a header taken by a forward SPACE FENCES. -/
def spaceFencesTake (a : Active) (h : Header) (s : State) : State :=
  if h.kind == .fence then
    let s1 := onActive (fun b => { b with scan := { b.scan with fences := b.scan.fences + 1 } }) s
    if (paramSpace a.entry.params).natAbs ≤ a.scan.fences + 1 then
      scanEnds .success (before a.part (nextNumber h.number) h.blockEnd false) s1
    else passBlock a h s1
  else passBlock a h s

/-- R107: a header of row 2, or of row 5 as though the blocks before it had been taken. -/
def forwardTake (a : Active) (h : Header) (s : State) : State :=
  match a.kind with
  | some .spaceBlocks => spaceBlocksTake a h s
  | some .spaceFences => spaceFencesTake a h s
  | _ => passBlock a h s

/-- R108, R111, R112: an END of row 4 or row 5. -/
def forwardEnd (a : Active) (h : Header) (s : State) : State :=
  match a.kind with
  | some .spaceBlocks => spaceBlocksEnd a h s
  | some .seekEnd => scanEnds .success (before a.part h.number h.origin true) s
  | _ => scanEnds .endOfData (before a.part h.number h.origin true) s

/-- R107: a good header in a forward header-only scan. R72 gives the position that a SEQUENCE BREAK records without its EOD
flag: the model clears it, where the offending header is an END too (DESIGN CHOICE, log 43). -/
def forwardHeader (a : Active) (h : Header) (s : State) : State :=
  if h.origin < a.scan.origin then s
  else
    match seqRow a.snap a.part a.scan.number h with
    | .broken => scanEnds .sequenceBreak (before a.part a.scan.number h.origin false) s
    | .previous => s
    | .expected => forwardTake a h s
    | .endHere => forwardEnd a h s
    | .missed => if h.kind == .endMark then forwardEnd a h s else forwardTake a h s

/-! ### Reverse scans (R109 to R111) -/

/-- R109: the landmark before the lowest number taken, at the earliest copy of it. -/
def backMark (a : Active) (n : BlockNo) (earliest : Int) (s : State) : State :=
  onActive (fun b => { b with scan := { b.scan with
    number := n, taken := true, earliest := earliest, landmark := before a.part n earliest false } }) s

/-- R109: the final block is fixed, with its cause; the scan runs on. -/
def fixFinal (c : Cause) (s : State) : State :=
  raise c (onActive (fun b => { b with scan := { b.scan with fixed := true } }) s)

/-- R110, R111: a header taken in reverse is judged; `s` has taken it. -/
def backJudge (a : Active) (h : Header) (s : State) : State :=
  match a.kind with
  | some .spaceFences =>
    if h.kind == .fence then
      let s1 := onActive (fun b => { b with scan := { b.scan with fences := b.scan.fences + 1 } }) s
      if (paramSpace a.entry.params).natAbs ≤ a.scan.fences + 1 then fixFinal .success s1 else s1
    else s
  | _ =>
    if h.kind == .fence && decide (a.scan.target < h.number.toNat) then fixFinal .fence s
    else if (h.number.toNat : Int) = a.scan.target then fixFinal .success s
    else if (h.number.toNat : Int) < a.scan.target then
      scanEnds .notFound (before a.part (nextNumber h.number) h.blockEnd false) s
    else s

/-- R109: the reverse scan ends with its final block fixed: the cause stands, and the order parks at the position. -/
def backEnds (final : Option Position) (s : State) : State :=
  askStop (setPhase .stopping .settle (setFinal (some final) s))

/-- R109: a good header after the final block is fixed: copies of it, and the first header numbered below it. Headers
of other partitions name no block of this one (log 36). -/
def fixedHeader (a : Active) (h : Header) (s : State) : State :=
  if h.part != a.part || !inRegion a.snap a.part h.origin then s
  else if h.number == a.scan.number && h.kind != .endMark then backMark a h.number h.origin s
  else if h.number.toNat < a.scan.number.toNat then
    backEnds (if h.number.toNat + 1 = a.scan.number.toNat then before a.part a.scan.number h.blockEnd false
              else before a.part a.scan.number a.scan.earliest false) s
  else s

/-- R109: a good header in a reverse scan. -/
def backHeader (a : Active) (h : Header) (s : State) : State :=
  if a.scan.origin ≤ h.origin then s
  else if a.scan.fixed then fixedHeader a h s
  else if h.part != a.part || !inRegion a.snap a.part h.origin || h.kind == .endMark ||
      decide (a.scan.number.toNat < h.number.toNat) then
    scanEnds .sequenceBreak a.scan.landmark s
  else if h.number == a.scan.number then
    if a.scan.taken then backMark a h.number h.origin s else s
  else backJudge a h (backMark a h.number h.origin s)

/-- R109 to R111: the counter has reached START(p) in reverse. -/
def backAtStart (a : Active) (s : State) : State :=
  if a.scan.fixed then backEnds (before a.part a.scan.number a.scan.earliest false) s
  else
    let start := before a.part 0 (partStart a.snap a.part) false
    match a.kind with
    | some .spaceBlocks => if a.scan.target < 0 then scanEnds .boundary start s else scanEnds .notFound start s
    | _ => scanEnds .boundary start s

/-! ### READ BLOCKS and VERIFY BLOCKS (R123 to R130) -/

/-- R123: an own condition of a reading order, with the position it records. -/
def readEnds (c : Cause) (p : Option Position) (s : State) : State := streamEnds c (setPosition p s)

/-- R124: whether the transport was CRUISING at STREAM RATE from the first tick of the header field just passed. -/
def armable (s : State) (a : Active) : Bool :=
  atStreamRate s.motion a.snap && decide (Config.headerTicks ≤ s.motion.steady)

/-- R124: the capture that a header arms, in a bank or for a check only. -/
def captureOf (h : Header) (bank : Option BankId) : Capture :=
  { bank := bank, origin := h.origin, lengthCode := h.lengthCode }

/-- R118, R124: a bank claimed for a capture. -/
def capturingBank (a : Active) (h : Header) : Bank where
  state := .capturing
  data := []
  part := h.part
  number := h.number
  kind := h.kind
  copy := h.copy
  length := dataLength h.lengthCode
  owner := a.entry.tag
  moved := 0
  age := 0

/-- R124, R126: a row-2 DATA header arms a capture, or a READ BLOCKS without an EMPTY bank meets starvation. -/
def armCapture (a : Active) (h : Header) (s : State) : State :=
  if !armable s a then s
  else if a.kind == some .readBlocks then
    match s.banks.toClaim with
    | none => reposition .emptyBank s
    | some id =>
      { s with banks := s.banks.claim id (capturingBank a h)
               framer := { s.framer with capture := some (captureOf h (some id)) } }
  else { s with framer := { s.framer with capture := some (captureOf h none) } }

/-- R124: the first copy of the expected block seen fixes the running slot origin. -/
def seeCopy (a : Active) (p : Position) (h : Header) (s : State) : State :=
  if a.stream.copySeen then s
  else
    onActive (fun b => { b with stream := { b.stream with copySeen := true } })
      (setPosition (some { p with slot := h.origin }) s)

/-- R128: a missed block: a read retry below READ RETRY LIMIT, READ ERROR at it. -/
def missedBlock (a : Active) (p : Position) (s : State) : State :=
  if a.stream.retry < a.snap.readRetry.toNat then
    let s1 := { s with banks := { s.banks with retries := bump s.banks.retries } }
    reposition .atOnce (onActive (fun b => { b with stream := { b.stream with retry := b.stream.retry + 1 } }) s1)
  else readEnds .readError (some { p with eod := false }) s

/-- R123: a good header in the stream of a reading order whose running position is `p`. The position that a SEQUENCE BREAK
records has EOD clear, where the offending header is an END too: R72 gives none (DESIGN CHOICE, log 43). -/
def readHeaderAt (a : Active) (p : Position) (h : Header) (s : State) : State :=
  if h.origin < p.slot then s
  else
    match seqRow a.snap a.part p.next h with
    | .broken => readEnds .sequenceBreak (before a.part p.next h.origin false) s
    | .expected =>
      match h.kind with
      | .data => armCapture a h (seeCopy a p h s)
      | _ => readEnds .fence (before a.part (nextNumber h.number) h.blockEnd false) s
    | .previous => setPosition (some { p with slot := h.blockEnd }) s
    | .endHere => readEnds .endOfData (before a.part p.next h.origin true) s
    | .missed => missedBlock a p s

/-- R123: a good header in the stream of a reading order. -/
def readHeader (a : Active) (h : Header) (s : State) : State :=
  match s.place.position with
  | none => s
  | some p => readHeaderAt a p h s

/-- R125: a later copy of the block just done, met during the stop of a completed reading order: each good header of its
number at or beyond the running slot origin. -/
def laterCopy (h : Header) (s : State) : State :=
  match s.place.position with
  | none => s
  | some p =>
    if nextNumber h.number == p.next && decide (p.slot ≤ h.origin) then setPosition (some { p with slot := h.blockEnd }) s
    else s

/-- R123: the counter has reached the end of p in a reading order. -/
def readPastEnd (s : State) : State := readEnds .notFound none s

/-- R123, R127: the gap count of a stream starts at the running slot origin. -/
def scanFrom (s : State) : State :=
  onActive (fun a => { a with
    gap := 0, scan := { a.scan with origin := (s.place.position.map Position.slot).getD 0 } }) s

/-- R35, R125: the block boundary of a reading order whose work is complete. -/
def readBoundary (a : Active) (s : State) : State :=
  match s.seq.queue with
  | [] => askStop (setPhase .complete .settle (raise .success s))
  | e :: _ =>
    if continues s a e then scanFrom (setPhase .scan .scan (handOverOrder e s))
    else askStop (setPhase .complete .settle (raise .success s))

/-- R124: a good capture of the expected block: it is done, and the running position moves past it. -/
def readDone (a : Active) (p : Position) (k : Capture) (s : State) : State :=
  let s1 := onActive (fun b => { b with stream := { b.stream with
    done := b.stream.done + 1
    recovered := b.stream.recovered || decide (0 < b.stream.retry)
    retry := 0
    copySeen := false } }) s
  setPosition (before a.part (nextNumber p.next) (k.origin + footprint .data k.lengthCode) false) s1

/-- R124, R125, R130: what a capture result means for a reading order in its stream. -/
def readResult (good : Bool) (k : Capture) (s : State) : State :=
  match s.seq.active, s.place.position with
  | some a, some p =>
    if a.phase != .scan || !a.isRead then s
    else
      let s1 := if good then readDone a p k s else s
      if stopWanted s a then stopToEnd s1
      else if good && decide (paramCount a.entry.params ≤ a.stream.done + 1) then readBoundary a s1
      else s1
  | _, _ => s

/-- R118, R124: the bank of a capture takes the result: FULL READ with its data, or EMPTY. -/
def captureBank (good : Bool) (data : List Byte) (k : Capture) (b : Banks) : Banks :=
  match k.bank with
  | none => b
  | some id => if good then b.set id { b.get id with state := .fullRead, data := data } else b.release id

/-- R65, R124: a capture result. -/
def onCapture (good : Bool) (data : List Byte) (s : State) : State :=
  match s.framer.capture with
  | none => s
  | some k =>
    readResult good k
      { s with framer := { s.framer with capture := none }, banks := captureBank good data k s.banks }

/-! ### Header events -/

/-- R64: the derived origin: the counter at the boundary between gap and header, less 24. Forward that boundary is met 12
ticks before the field ends, in reverse as it ends (log 18). -/
def FieldPlace.origin (p : FieldPlace) : Int :=
  match p.dir with
  | .forward => p.tick.toInt - Config.headerEndTicks
  | .reverse => p.tick.toInt - Config.gapTicks

/-- R106, R109, R123: every header event, good or bad, restarts the gap count. -/
def restartGap (s : State) : State := onActive (fun a => { a with gap := 0 }) s

/-- R64, R66: a good header loads LAST HEADER. -/
def loadHeader (c : HeaderContent) (s : State) : State := { s with framer := { s.framer with lastHeader := c } }

/-- What the active order does with a good header, by its phase. -/
def classify (h : Header) (s : State) : State :=
  match s.seq.active with
  | none => s
  | some a =>
    match a.phase with
    | .scan =>
      if a.isRead then readHeader a h s
      else if a.kind == some .locate then locateHeader a h s
      else forwardHeader a h s
    | .scanBack => backHeader a h s
    | .confirm => confirmHeader a h s
    | .complete => laterCopy h s
    | _ => s

/-- R64: a header event at a derived origin. A capture still armed when the next header has passed was cut short
(log 19). -/
def headerMet (f : HeaderField) (origin : Int) (s : State) : State :=
  let s1 := onCapture false [] s
  let s2 := restartGap { s1 with framer := { s1.framer with headerCrc := headerCheck (fieldContent f) } }
  match goodHeader f origin with
  | none => s2
  | some h => classify h (learn h (loadHeader (fieldContent f) s2))

/-! ### Gap count and partition end after a step -/

/-- R106, R107, R123: the gap count rises with each forward step beyond the origin of the scan. -/
def countGap (origin : Int) (s : State) : State :=
  onActive (fun a => { a with gap := if origin < s.motion.pos then a.gap + 1 else 0 }) s

/-- R109: the gap count in reverse. R109 says only "GAP LIMIT steps without a header": the model counts the steps below the
slot origin, where the headers that the scan takes lie (DESIGN CHOICE, log 43). -/
def countGapBack (origin : Int) (s : State) : State :=
  onActive (fun a => { a with gap := if s.motion.pos < origin then a.gap + 1 else 0 }) s

/-- Whether the active order's gap count has reached GAP LIMIT. -/
def gapFull (s : State) : Bool :=
  match s.seq.active with
  | none => false
  | some a => decide (a.snap.gapLimit.toNat ≤ a.gap)

/-- R106, R107, R109, R123: GAP LIMIT is reached: BLANK. -/
def blankMet (s : State) : State :=
  match s.seq.active with
  | none => s
  | some a => if a.isRead then streamEnds .blank s else scanEnds .blank a.scan.landmark s

/-- R109: GAP LIMIT in a reverse scan; with the final block fixed its cause stands (R52). -/
def blankBack (s : State) : State :=
  match s.seq.active with
  | none => s
  | some a => scanEnds .blank a.scan.landmark s

/-- R65, R123: a capture ends at this very tick: its result is judged before the limits of the scan (log 21). -/
def captureEndsHere (s : State) : Bool :=
  s.framer.capture.any fun k => decide (k.origin + footprint .data k.lengthCode = s.motion.pos)

/-- R106, R107, R112: the position that NOT FOUND at the partition end leaves: UNKNOWN, but a SEEK END takes its landmark,
for R112 says so where R107 says UNKNOWN (DESIGN CHOICE, log 43). -/
def endPosition (a : Active) : Option Position := if a.kind == some .seekEnd then a.scan.landmark else none

/-- R106, R107, R112, R123: the counter reaches the end of the partition in a forward scan. -/
def scanPastEnd (a : Active) (s : State) : State :=
  if a.isRead then readPastEnd s else scanEnds .notFound (endPosition a) s

/-- R106, R107, R123: the limits of a forward scan: the end of the partition, then GAP LIMIT. -/
def scanLimits (a : Active) (s : State) : State :=
  if partEnd a.snap a.part ≤ s.motion.pos then scanPastEnd a s
  else if gapFull s then blankMet s
  else s

/-- R106, R107, R123: a forward scan after a step: the gap count and the end of the partition. R106 puts the end before the
lines of a good header; R107 and R123 do not say which of the two is first where both fall on one step, and the model
takes the end first there too (DESIGN CHOICE, log 43). -/
def scanStep (a : Active) (s : State) : State :=
  let s1 := countGap a.scan.origin s
  if !captureEndsHere s && decide (partEnd a.snap a.part ≤ s.motion.pos) then scanPastEnd a s1 else s1

/-- R65, R123: the limits that a capture's last step left to be judged after its result. -/
def limitsAfterResult (s : State) : State :=
  match s.seq.active with
  | none => s
  | some a => if a.phase == .scan && a.isRead then scanLimits a s else s

/-- R109: a reverse scan after a step: the gap count and the start of the partition, which the model judges before a
header event of that instant (DESIGN CHOICE, log 43). -/
def scanBackStep (a : Active) (s : State) : State :=
  let s1 := countGapBack a.scan.origin s
  if s.motion.pos ≤ partStart a.snap a.part then backAtStart a s1 else s1

/-- What the active order does after a step, by its phase, once the writer has moved on. -/
def phaseStep (s : State) : State :=
  match s.seq.active with
  | none => s
  | some a =>
    match a.phase with
    | .scan => scanStep a s
    | .scanBack => scanBackStep a s
    | .confirm => confirmStep a s
    | _ => s

/-- R64: a header decodes where a whole field has just passed, and not while the part sleeps. -/
def fieldEnds (s : State) : Option FieldPlace := if s.power.state == .sleep then none else s.framer.field

/-- R64: the field that has ended gives one header event. -/
def takeField (s : State) : State := { s with framer := { s.framer with field := none } }

/-- R63, R64: the header event of a field that has ended at a place with these bits. -/
def fieldRead (place : FieldPlace) (bits : BitVec 64) (s : State) : State :=
  headerMet (recovered place.dir bits) place.origin (takeField s)

/-- R53, R64: the header event of a field that ends with this step: it is applied before an ending that the step brings. -/
def stepHeader (s : State) : State :=
  match fieldEnds s with
  | none => s
  | some place =>
    match place.bits with
    | none => s
    | some bits => fieldRead place bits s

/-- R106, R109, R123: the gap count has reached GAP LIMIT with this step, and no header event of the step has restarted
it. A capture that ends here is judged first (log 21). -/
def gapStep (s : State) : State :=
  match s.seq.active with
  | none => s
  | some a =>
    match a.phase with
    | .scan => if !captureEndsHere s && gapFull s then blankMet s else s
    | .scanBack => if gapFull s then blankBack s else s
    | _ => s

end Sys2Proof.Machine
end

