-- ==== Sys2Proof/Machine/Begin.lean ====
section
/-! DEFINITION. The departure of the head order and what each order does first (R28, R32, R99, R101 to R112, R123,
R131). -/

namespace Sys2Proof.Machine

/-! ### Requests of the Sequencer -/

/-- A move-to at SEARCH RATE (R99, R101 to R105). -/
def moveTo (t : Int) (s : State) : State := ask (.moveTo t (profile s).searchRate.toNat) s

/-- A run at SEARCH RATE (R105, R107, R109). -/
def searchRun (d : Dir) (s : State) : State := ask (.run d (profile s).searchRate.toNat) s

/-- A run forward at STREAM RATE (R123, R127, R131). -/
def streamRun (s : State) : State := ask (.run .forward (profile s).streamRate.toNat) s

/-- A zeroing seek at SEARCH RATE (R88, R101 to R105). -/
def zeroSeek (s : State) : State := ask (.seek (profile s).searchRate.toNat) (setPhase .seek .reference s)

/-- APPROACH MARGIN in force. -/
def margin (s : State) : Int := (profile s).approachMargin.toNat

/-- R99 step 2, R127 step 4: the run forward of an order that stands before its slot. -/
def beginRun (s : State) : State :=
  match s.seq.active with
  | none => s
  | some a =>
    if a.isWrite then streamRun (setPhase .confirm .scan s)
    else if a.isRead then streamRun (scanFrom (setPhase .scan .scan s))
    else searchRun .forward (onActive (fun b => { b with gap := 0 }) (setPhase .scan .scan s))

/-- R99, R131: the approach has reached its tick: a WRITE BLOCKS waits for a full bank, the others run. -/
def approachDone (s : State) : State :=
  match s.seq.active with
  | none => s
  | some a => if a.kind == some .writeBlocks then setPhase .waitBank .travel s else beginRun s

/-- R99: the approach to a slot; step 1 is made in the given stage, and not at all at its tick. -/
def approach (slot : Int) (stage : Stage) (s : State) : State :=
  let s1 := setPhase .approach stage s
  if s.motion.pos = slot - margin s then approachDone s1 else moveTo (slot - margin s) s1

/-- R97: the position becomes UNKNOWN at departure. -/
def forgetPosition (s : State) : State := { s with place := { s.place with position := none } }

/-! ### LOAD, REWIND, LOCATE -/

/-- R101, R103: the coarse move to a partition start less APPROACH MARGIN. -/
def travelToStart (s : State) : State :=
  match s.seq.active with
  | none => s
  | some a => moveTo (partStart a.snap a.part - margin s) (setPhase .travel .travel s)

/-- R105: the entries an anchor may be: of p, at or below N, with an origin in p's region. -/
def anchorChoices (a : Active) (map : List MapEntry) : List MapEntry :=
  map.filter fun d => d.part == a.part && decide ((d.number.toNat : Int) ≤ a.scan.target) &&
    inRegion a.snap a.part d.origin.toInt

/-- R105: of two entries the one with the greater block number. -/
def higherEntry (best : Option MapEntry) (d : MapEntry) : Option MapEntry :=
  match best with
  | none => some d
  | some b => if b.number.toNat < d.number.toNat then some d else some b

/-- R105: the anchor entry, if the map has one. -/
def anchorEntry (a : Active) (map : List MapEntry) : Option MapEntry := (anchorChoices a map).foldl higherEntry none

/-- R105: the travel is skipped: the position at departure lies in p, at or below N, at or beyond the anchor. -/
def skipsTravel (a : Active) (anchor : Int) : Bool :=
  a.departed.any fun p => p.part == a.part && decide ((p.next.toNat : Int) ≤ a.scan.target) && decide (anchor ≤ p.slot)

/-- The scan origin of the active order set. -/
def setScanOrigin (t : Int) (s : State) : State := onActive (fun a => { a with scan := { a.scan with origin := t } }) s

/-- R105: LOCATE chooses its anchor and goes to its scan origin. -/
def locateFrom (s : State) : State :=
  match s.seq.active with
  | none => s
  | some a =>
    let entry := anchorEntry a s.place.map
    let s1 := match entry with | some d => { s with place := mapTouch d.part d.number s.place } | none => s
    let anchor : Int := match entry with | some d => d.origin.toInt | none => partStart a.snap a.part
    match a.departed with
    | some p =>
      if skipsTravel a anchor then approach p.slot .scan (setScanOrigin p.slot s1)
      else moveTo (anchor - margin s) (setPhase .travel .travel (setScanOrigin anchor s1))
    | none => moveTo (anchor - margin s) (setPhase .travel .travel (setScanOrigin anchor s1))

/-- R103, R105: an order that needs the reference re-zeroes first when it is INVALID. -/
def zeroedFirst (go : State → State) (s : State) : State := if s.motion.refValid then go s else zeroSeek s

/-- R94, R95, R101: a LOAD begins. -/
def beginLoad (s : State) : State :=
  zeroSeek { s with place := { s.place with cart := .loading, wpLatch := s.inputs.wprot.level, position := none } }

/-- R102: an UNLOAD begins. -/
def beginUnload (s : State) : State := zeroSeek (forgetPosition s)

/-- R103: a REWIND begins. -/
def beginRewind (s : State) : State := zeroedFirst travelToStart (forgetPosition s)

/-- R105: a LOCATE begins. -/
def beginLocate (params : List Byte) (s : State) : State :=
  zeroedFirst locateFrom
    (onActive (fun a => { a with scan := { a.scan with target := (paramBlock params).toNat } }) (forgetPosition s))

/-- R104: a MOVE RAW begins; the sum is formed without wrapping. -/
def beginMoveRaw (params : List Byte) (s : State) : State :=
  let t := s.motion.pos + paramTicks params
  moveTo t (setPhase .travel .travel
    (onActive (fun a => { a with scan := { a.scan with target := t } }) (forgetPosition s)))

/-! ### Scans and streams -/

/-- R107, R109: the scan of an order that starts at a KNOWN position. -/
def scanAt (p : Position) (target : Int) : Scan :=
  { Scan.fresh with origin := p.slot, number := p.next, target := target, landmark := some p, earliest := p.slot }

/-- R36: an own condition met at the start, at stage 0, with no motion. -/
def endsAtStart (c : Cause) (s : State) : State := finish (raise c s)

/-- R107: a forward SPACE order or a SEEK END begins. -/
def beginForward (p : Position) (target : Int) (s : State) : State :=
  approach p.slot .scan (onActive (fun a => { a with scan := scanAt p target }) s)

/-- R109: the reverse run of a SPACE order. -/
def scanBackRun (s : State) : State :=
  searchRun .reverse (onActive (fun a => { a with gap := 0 }) (setPhase .scanBack .scan s))

/-- R109: a reverse SPACE order begins. -/
def beginBack (p : Position) (target : Int) (s : State) : State :=
  let s1 := onActive (fun a => { a with scan := scanAt p target }) s
  if s.motion.pos < p.slot then moveTo p.slot (setPhase .travel .travel s1) else scanBackRun s1

/-- R107, R109: a SPACE BLOCKS or SPACE FENCES begins. -/
def beginSpace (params : List Byte) (p : Position) (s : State) : State :=
  let c := paramSpace params
  if 0 < c then
    if p.eod then endsAtStart .endOfData s else beginForward p (p.next.toNat + c) s
  else beginBack p (p.next.toNat + c) s

/-- R112: a SEEK END begins. -/
def beginSeekEnd (p : Position) (s : State) : State :=
  if p.eod then endsAtStart .success s else beginForward p 0 s

/-- R123: a READ BLOCKS or VERIFY BLOCKS begins. -/
def beginRead (p : Position) (s : State) : State :=
  if p.eod then endsAtStart .endOfData s else approach p.slot .travel s

/-- R131: the append slot: START(p) for block 0, the position's slot otherwise. -/
def appendSlot (a : Active) (p : Position) : Int := if p.next = 0 then partStart a.snap a.part else p.slot

/-- R131: a write-class order begins. -/
def beginWrite (p : Position) (s : State) : State :=
  match s.seq.active with
  | none => s
  | some a =>
    approach (appendSlot a p) .travel
      (onActive (fun b => { b with stream := { b.stream with slot := appendSlot a p } }) s)

/-- An order that begins from the KNOWN position; check 3 has seen that there is one (R30). -/
def fromPosition (go : Position → State → State) (s : State) : State :=
  match s.place.position with
  | some p => go p s
  | none => s

/-- R28, R32: an order that has passed its start checks is carried out or begins. -/
def beginOrder (k : OrderKind) (params : List Byte) (s : State) : State :=
  match k with
  | .mark => endsAtStart .success s
  | .clearMap => endsAtStart .success { s with place := mapClear s.place }
  | .load => beginLoad s
  | .unload => beginUnload s
  | .rewind => beginRewind s
  | .locate => beginLocate params s
  | .moveRaw => beginMoveRaw params s
  | .spaceBlocks => fromPosition (beginSpace params) s
  | .spaceFences => fromPosition (beginSpace params) s
  | .seekEnd => fromPosition beginSeekEnd s
  | .readBlocks => fromPosition beginRead s
  | .verifyBlocks => fromPosition beginRead s
  | .writeBlocks => fromPosition beginWrite s
  | .writeFences => fromPosition beginWrite s
  | .eraseRemainder => fromPosition beginWrite s

/-- R28: the departure of an entry: the slot and the snapshot, the AUTO clears, the checks, the first act. -/
def departEntry (e : QueueEntry) (rest : List QueueEntry) (s : State) : State :=
  let s1 := autoClearEntry e (activate e rest s)
  match startCheck s1 s1.setup e with
  | some c => endsAtStart c s1
  | none =>
    match orderKind e.code with
    | some k => beginOrder k e.params s1
    | none => s1

/-- R27: the head may depart now. -/
def headReady (s : State) : Bool :=
  match s.seq.queue with
  | [] => false
  | e :: _ => s.seq.active.isNone && mayStart s s.reports.stored.length e

/-- R27, R28: the head departs. -/
def depart (s : State) : State :=
  match s.seq.queue with
  | [] => s
  | e :: rest => departEntry e rest s

end Sys2Proof.Machine
end

