-- ==== Sys2Proof/Machine/Events.lean ====
section
/-! DEFINITION. Safe points, the Sequencer's reading of motion events, sleep entry, and the consequences carried out
inside a command (R27, R92, R94, R100, R127, R130, R131, R140, R142, R174 to R177; log 6). -/

namespace Sys2Proof.Machine

/-! ### Safe points of HALT and lockout (R38, R100, R130, R140, R156) -/

/-- The stop that waits takes effect now: the cause arises in the stage in progress, the final position of that stage is
taken, and the order stops and ends. -/
def stopHere (a : Active) (s : State) : State := stopToEnd (setFinal (haltFinal a) s)

/-- A stop already under way is the safe point: only the cause arises, and the order ends at that rest. -/
def stopUnderWay (s : State) : State := setPhase .ending .settle (raiseStop s)

/-- R38: the safe point of a stop that has just been called for, if the order stands at one; otherwise it waits. In the stop
of a completed reading order R130 has no header classified after the safe point, R125 each later copy of the last block
move the slot: the model goes on noting later copies there (DESIGN CHOICE, log 22). -/
def interrupt (s : State) : State :=
  match s.seq.active with
  | none => s
  | some a =>
    if !stopWanted s a then s
    else
      match a.phase with
      | .seek =>
        if s.motion.waitingAtRest then stopHere a s
        else if s.motion.seek == .ended then setPhase .ending .reference (setFinal (some none) (raiseStop s))
        else s
      | .scan => if s.framer.capture.isSome then s else stopHere a s
      | .write => s
      | .stopping => if a.isStream then stopUnderWay s else s
      | .park => if a.isStream || s.motion.waitingAtRest then stopHere a s else s
      | .erase => eraseStopped s
      | .repStop => stopUnderWay s
      | .complete => raiseStop s
      | .ending => raiseStop s
      | _ => stopHere a s

/-! ### Motion events -/

/-- R88, R94, R100: a zeroing seek has found its edge. Where a LOAD's zeroing step comes to rest at once and TENSION sets in
there, R150 does not say whether the transport was moving: the model takes it as at rest, and the reference stays VALID
(DESIGN CHOICE, log 42). -/
def onZeroed (s : State) : State :=
  match s.seq.active with
  | none => s
  | some a =>
    let s1 := if a.kind == some .load then judge { s with place := { s.place with cart := .loaded } } else s
    match s1.seq.active with
    | none => s1
    | some b =>
      if stopWanted s1 b then setPhase .ending .reference (setFinal (some none) (raiseStop s1)) else s1

/-- R100, R101 to R103, R105: a seek that has found nothing. -/
def seekFailed (s : State) : State :=
  setPhase .ending .reference (setFinal (some none) (raiseStop (raise .loadFailed s)))

/-- R142: the position a boundary leaves a write-class order in; with the gate on, the gate drops. A boundary on the step that
ends an END's trailer cuts that END: the spec does not order the two (DESIGN CHOICE, log 43). -/
def writeBoundaryMet (a : Active) (s : State) : State :=
  if s.framer.gate then dropGate (setPosition (cutWritePosition s a) s) else s

/-- R100: the final position after a boundary, by the stage in progress. -/
def boundaryFinal (a : Active) : Option (Option Position) :=
  match a.stage with
  | .scan => some a.scan.landmark
  | _ => some none

/-- R100, R123, R142: a boundary that is not the order's goal: the controller's own stop follows, and the order ends at
its rest. A completed reading order goes on noting later copies (R125). In a scan whose partition ends at MAX TAPE
LENGTH the boundary and the end of the partition fall on one step, and the spec does not say which condition is first:
the model takes BOUNDARY, with the landmark, and in the erase of such a partition BOUNDARY too, where R139 would have its
move back and SUCCESS. A header field that ends on the step of a boundary is met after it, so the order no longer classifies
it: R92 does not order the two (DESIGN CHOICE, log 43). -/
def onBoundary (reason : BoundaryReason) (s : State) : State :=
  match s.seq.active with
  | none => s
  | some a =>
    if reason = .seekExhausted then seekFailed s
    else
      let s1 := raiseStop (raise .boundary s)
      if a.isWrite then setPhase .ending .settle (writeBoundaryMet a s1)
      else if a.phase = .complete then s1
      else if a.isRead then setPhase .ending .settle s1
      else setPhase .ending .settle (setFinal (boundaryFinal a) s1)

/-- R101 to R105: the rest of a zeroing seek. -/
def afterSeek (a : Active) (s : State) : State :=
  match a.kind with
  | some .unload => finish (setFinal (some none) (raise .success s))
  | some .locate => locateFrom s
  | _ => travelToStart s

/-- R101, R103 to R105, R109: the coarse move has arrived. -/
def afterTravel (a : Active) (s : State) : State :=
  match a.kind with
  | some .locate => beginRun s
  | some .moveRaw => finish (setFinal (some none) (raise .success s))
  | some .spaceBlocks => scanBackRun s
  | some .spaceFences => scanBackRun s
  | _ => finish (setFinal (some (before a.part 0 (partStart a.snap a.part) false)) (raise .success s))

/-- R99, R139: the tick that an order moves back to after its stop. -/
def parkTick (s : State) (a : Active) : Int :=
  let p : Option Position := if a.isStream then s.place.position else a.final.getD none
  (p.map Position.slot).getD 0 - margin s

/-- R99, R139: the rest of a stop after which the order parks. -/
def afterStopping (a : Active) (s : State) : State := moveTo (parkTick s a) (setPhase .park .settle s)

/-- R99, R100, R139: the parking rest. -/
def afterPark (s : State) : State := finish (raise .success s)

/-- R99 to R105, R123, R127: what an active order does at a rest, by its phase. -/
def atRest (a : Active) (s : State) : State :=
  match a.phase with
  | .seek => afterSeek a s
  | .travel => afterTravel a s
  | .approach => approachDone s
  | .repStop => moveTo (cycleSlot s a - margin s) (setPhase .repMove .scan s)
  | .repMove => setPhase .repWait .scan s
  | .stopping => afterStopping a s
  | .park => afterPark s
  | .complete => finish s
  | .ending => finish s
  | _ => s

/-- R92: the rest that ends the serving of a request. A capture still armed there was cut short (R65). The order ends at
this rest where a HALT or a lockout waits (R38, R100, R130, R140); one that has been cut short goes no further. -/
def onStopped (s : State) : State :=
  let s1 := onCapture false [] s
  match s1.seq.active with
  | none => s1
  | some a =>
    if cutStands s1 then s1
    else if stopWanted s1 a then finish (setFinal (haltFinal a) (raiseStop s1))
    else atRest a s1

/-- R147: the write gate has been raised since `before`: WRFLT/ may still be low from the samples taken before. -/
def gateRaised (before s : State) : Bool := s.framer.gate && !before.framer.gate

/-- R61, R64, R74, R106: what follows a step: the writer moves on, then the active order's own count, the header field that
ends with it, and GAP LIMIT; a gate just raised is judged. -/
def onStepped (s : State) : State :=
  let t := gapStep (stepHeader (phaseStep (writerStep s)))
  if gateRaised s t then judge t else t

/-- R33, R177: a request that waits at rest does not outlive the sleep entry, or an order that was cut short (log 34). -/
def cancelRequest (m : Motion) : Motion :=
  { m with state := (if m.state = .dwell then .stopped else m.state), request := none, waiting := none
           settling := false, settleTimer := 0, dwellTimer := 0, seek := .none }

/-- R83, R100: the pending request starts at an intermediate rest: the second leg of a zeroing seek, a corrected move-to, a
reversed run, or a zeroing seek asked for while moving. A HALT or lockout that waits takes effect at once in the
DWELL or the settle wait that follows. The request of an order that was cut short at this instant does not start. -/
def restarted (s : State) : State :=
  if cutStands s || s.seq.active.isNone then { s with motion := cancelRequest s.motion }
  else
    let t := handOver (goOn (ctlEnv s) s.motion) s
    if t.motion.waitingAtRest then interrupt t else t

/-- R92: one event. A stopped-at with the held mark belongs to an order that its cause has cut short. -/
def onEvent (e : MotionEvent) (s : State) : State :=
  match e with
  | .zeroed => onZeroed s
  | .atRate _ => s
  | .boundary r => onBoundary r s
  | .stall => stallFault s
  | .stepped => onStepped s
  | .restart => restarted s
  | .stoppedAt _ _ held => if held then s else onStopped s
  | .orderEnds => finish s

/-! ### Sleep entry (R174 to R177) -/

/-- R177: the acts that finish every sleep entry. -/
def enterSleep (s : State) : State :=
  { s with
    power := { s.power with
      state := .sleep, standbyTimer := 0, deadlineTimer := 0
      lost := s.seq.queue.length + (if s.seq.active.isSome then 1 else 0)
      lostActive := s.seq.active.isSome }
    seq := { s.seq with staging := [], queue := [], active := none, haltPending := false }
    motion := cancelRequest s.motion
    events := [] }

/-- R94: a LOAD cut off before its zeroing leaves the cartridge INSERTED. -/
def cutLoad (s : State) : State :=
  if s.place.cart = .loading then { s with place := { s.place with cart := .inserted } } else s

/-- R176: a forced entry: a moving transport is held, the gate drops, the active order is cut off. -/
def forcedSleep (s : State) : State :=
  enterSleep (dropGate (cutLoad (if s.motion.moving then hold false s else s)))

/-- R174: deferred entry is due: SLEEP PENDING holds and no order is active. -/
def deferredDue (s : State) : Bool := s.power.state == .sleepPending && s.seq.active.isNone && !s.inputs.rstLow

/-! ### Settling -/

/-- R127: a reposition cycle that waits at rest finds its resume condition holding. -/
def resumeDue (s : State) : Bool := s.seq.active.any fun a => a.phase == .repWait && resumeReady s a

/-- R131: a WRITE BLOCKS that waits in stage 2 finds a FULL WRITE bank it owns. -/
def writeWaitDue (s : State) : Bool :=
  s.seq.active.any fun a => a.phase == .waitBank && (s.banks.fullFor a.entry.tag).isSome

/-- Log 6: the next consequence due inside the command: an event of the controller, a deferred sleep entry, the
departure of the head, the end of a wait at rest. None when nothing is due. -/
def settleStep (s : State) : Option State :=
  match s.events with
  | e :: rest => some (onEvent e { s with events := rest })
  | [] =>
    if deferredDue s then some (enterSleep s)
    else if headReady s then some (depart s)
    else if resumeDue s || writeWaitDue s then some (beginRun s)
    else none

/-- Log 6: the consequences of a command, at most `n` of them. No event is left for a later command. -/
def settleFor : Nat → State → State
  | 0, s => { s with events := [] }
  | n + 1, s =>
    match settleStep s with
    | none => s
    | some t => settleFor n t

/-- Log 6: all consequences of a command. -/
def settle (s : State) : State := settleFor Config.settleFuel s

/-! ### What falls at the instant of a rest (R53; log 3) -/

/-- R53: what falls at this instant acts before the events that wait. -/
def beforeRest (act : State → State) (s : State) : State :=
  let t := act { s with events := [] }
  { t with events := s.events ++ t.events }

/-- R92: an event that hands a rest, or at which an order that was cut short ends. -/
def MotionEvent.rests : MotionEvent → Bool
  | .stoppedAt _ _ _ => true
  | .restart => true
  | .orderEnds => true
  | _ => false

/-- R53: settling, at most `n` consequences of it, with what falls at this instant, `act`, between the events of a step and
the rest that the step may come to. -/
def settleAroundFor (act : State → State) : Nat → State → State
  | 0, s => settleFor 0 (act s)
  | n + 1, s =>
    match s.events with
    | [] => settleFor (n + 1) (act s)
    | e :: rest =>
      if e.rests then settleFor (n + 1) (beforeRest act s)
      else settleAroundFor act n (onEvent e { s with events := rest })

/-- R53: all consequences of a step, with what falls at its instant. -/
def settleAround (act : State → State) (s : State) : State := settleAroundFor act Config.settleFuel s

end Sys2Proof.Machine
end

