-- ==== Sys2Proof/Machine/PowerOps.lean ====
section
/-! DEFINITION. The power states, the wake and the resets as operations (chapter 10), the cartridge's changes (R94, R96,
R117), and one millisecond of the time base (R74, log 4). -/

namespace Sys2Proof.Machine

/-! ### Standby and sleep sources -/

/-- R173: the standby condition; the timer stands at 0 while RST/ is low (R180). -/
def standbyCondition (s : State) : Bool :=
  s.power.state == .active && s.setup.standbyDelay != 0 && !busy s && s.motion.state == .stopped && !s.inputs.rstLow

/-- R173: STANDBY DELAY in milliseconds. -/
def standbyMs (s : State) : Nat := s.setup.standbyDelay.toNat * Config.delayUnitMs

/-- R175: SLEEP DEADLINE in milliseconds. -/
def deadlineMs (s : State) : Nat := s.setup.sleepDeadline.toNat * Config.delayUnitMs

/-- R173: STANDBY is entered; nothing else changes. -/
def enterStandby (s : State) : State := { s with power := { s.power with state := .standby, standbyTimer := 0 } }

/-- R174: SLEEP PENDING begins and the deadline timer starts at 0. -/
def enterPending (s : State) : State :=
  { s with power := { s.power with state := .sleepPending, standbyTimer := 0, deadlineTimer := 0 } }

/-- R174: the link source clears while SLEEP PENDING lasts. -/
def leavePending (s : State) : State := { s with power := { s.power with state := .active, deadlineTimer := 0 } }

/-- R172, R174: the link source becomes asserted. -/
def linkSourceSet (s : State) : State :=
  if s.inputs.rstLow then s
  else
    match s.power.state with
    | .active => settle (enterPending s)
    | .standby => settle (enterPending s)
    | _ => s

/-- R172, R174: the link source becomes clear while the part is awake. -/
def linkSourceClear (s : State) : State :=
  match s.power.state with
  | .sleepPending => settle (leavePending s)
  | _ => s

/-- R180, R181: the sleep sources judged at the end of a reset: the pin gives a forced entry, the link SLEEP PENDING and,
the part being idle, a deferred entry at once. -/
def judgeSources (s : State) : State :=
  if pinSource s then forcedSleep s
  else if s.link.sleepReq then enterSleep (enterPending s)
  else s

/-! ### The cartridge (R94, R96, R117) -/

/-- R96: what a removal does to the cartridge, the map, the reference and the position. -/
def loseCartridge (s : State) : State :=
  loseReference { s with place := { mapClear s.place with cart := .empty } }

/-- R53, R58, R96: the debounced CARTIN level has become absent: the cartridge is EMPTY, a moving transport is held, and with
an order active MEDIUM REMOVED cuts it short. The fault conditions of that sample are judged first, while the write gate is still
on, and compete (R52, R145); they are reported only with no order active. TENSOK low on the very sample of the removal is
no fault: the spec does not say whether TENSION is recorded before the removal ends its condition, and the model makes the
cartridge EMPTY first (DESIGN CHOICE, log 4). `act` is what else falls at this instant (R46). -/
def removeCartridge (act : State → State) (s : State) : State :=
  if s.place.cart = .empty then judge s
  else if s.seq.active.isSome then
    let s1 := inhibitController (faultBits (loseCartridge s))
    cutShort .mediumRemoved (if s1.motion.moving then hold false s1 else s1)
  else judgeAfter (pushBefore act .cartridgeRemoved) (loseCartridge (if s.motion.moving then hold false s else s))

/-- R94, R58: the debounced CARTIN level has become present. -/
def insertCartridge (act : State → State) (s : State) : State :=
  if s.place.cart = .empty then
    let s1 := { s with place := { s.place with cart := .inserted } }
    if s1.seq.active.isSome then judge s1 else judgeAfter (pushBefore act .cartridgeInserted) s1
  else judge s

/-- R94, R96, R147: the cartridge state follows the debounced level, and the Health Monitor reacts in the same step; `act`
falls at that instant, before the order that a removal cuts short ends (R53). -/
def cartinAround (act : State → State) (present : Bool) (s : State) : State :=
  beforeRest act (if present then insertCartridge act s else removeCartridge act s)

/-- R94, R96, R147: the same with nothing else at that instant. -/
def followCartin (present : Bool) (s : State) : State := cartinAround id present s

/-- R117: the cartridge state after RST/ or DEVICE RESET: LOADED kept, LOADING becomes INSERTED, otherwise from CARTIN;
an absent cartridge is removed within the reset. -/
def resetCartridge (s : State) : State :=
  if !s.inputs.cartin.level then (if s.place.cart = .empty then s else loseCartridge s)
  else if s.place.cart = .loaded then s
  else { s with place := { s.place with cart := .inserted } }

/-- R117: a debounced level taken from the pin at a reset. -/
def Sense.load (x : Sense) : Sense := .sampled x.pin

/-- R117: the CARTIN and WPROT levels taken at a reset. -/
def loadCartridgeLevels (s : State) : State :=
  { s with inputs := { s.inputs with cartin := s.inputs.cartin.load, wprot := s.inputs.wprot.load } }

/-- R145, R178: the health levels taken from a single sample each, WRFLT/ high. -/
def loadHealthLevels (s : State) : State :=
  { s with inputs := { s.inputs with
      drvflt := s.inputs.drvflt.load, tensok := s.inputs.tensok.load, tempw := s.inputs.tempw.load
      supok := s.inputs.supok.load, wrflt := { s.inputs.wrflt with last := true, level := true } } }

/-! ### Resets -/

/-- R19, R41, R73, R144: the order side, the banks, the Framer and the Host Port after every kind of reset. -/
def clearOrderSide (s : State) : State :=
  { s with
    host := .afterReset, seq := .afterReset, banks := .afterReset, framer := .afterReset, events := []
    power := { s.power with standbyTimer := 0, deadlineTimer := 0 } }

/-- R93: the controller after RST/ or DEVICE RESET, the hold made: no request, counts and timers cleared. -/
def resetMotion (m : Motion) : Motion :=
  { cancelRequest m with stallCount := 0, lastOvershoot := 0, overshoot := 0, ramp := 0, decel := .none, steady := 0
                         seekSteps := 0, sensed := false, bounded := false }

/-- R180, R181: a moving transport is held for a reset and the gate drops. -/
def resetHold (s : State) : State := dropGate (if s.motion.moving then hold false s else s)

/-- R46, R59: the reset's report is the only one; `after` is what else falls at its instant. -/
def resetReportBefore (after : State → State) (cause : Cause) (s : State) : State := pushBefore after cause (emptyReports s)

/-- R59: the same with nothing else at that instant. -/
def resetReport (cause : Cause) (s : State) : State := pushUnsolicited cause (emptyReports s)

/-- R93, R178 step 3: the controller's wake state; the counter and the DIR level are kept. -/
def wakeMotion (m : Motion) : Motion := { Motion.afterPowerOn with tick := m.tick, dir := m.dir }

/-- R117, R178 step 4: the cartridge and the position after a wake. -/
def wakePlace (s : State) : Place :=
  { cart := if s.inputs.cartin.level then .inserted else .empty
    wpLatch := false, position := none, map := [], mapClock := s.place.mapClock }

/-- R178 steps 1 to 7: the state changes of the wake. -/
def wakeChanges (s : State) : State :=
  let s1 := clearOrderSide (loadHealthLevels (loadCartridgeLevels s))
  let s2 := { s1 with power := { s1.power with state := .active }, motion := wakeMotion s1.motion, place := wakePlace s1 }
  clearAction (faultBits s2)

/-- R55: the WAKE report: Stage 1 if an order was cut off, Residual the orders lost. -/
def wakeReport (s : State) : Report :=
  { baseReport .wake s with
    stage := if s.power.lostActive then .reference else .startChecks
    residual := BitVec.ofNat 16 s.power.lost }

/-- R178: the wake. The Host Port becomes active 2 ms later (R5). -/
def wakeUp (s : State) : State :=
  let s1 := emptyReports (wakeChanges s)
  pushReport (wakeReport s1) { s1 with power := { s1.power with portWait := Config.portWaitMs } }

/-- R171, R172: the pin source follows the debounced SLP/: a forced entry when it becomes low, a wake when it becomes
high in SLEEP and the link source is clear; nothing while RST/ is low (R180). -/
def followSlp (s : State) : State :=
  if s.inputs.rstLow then s
  else if pinSource s then (if s.power.state = .sleep then s else forcedSleep s)
  else if s.power.state = .sleep ∧ !s.link.sleepReq then wakeUp s
  else s

/-- R169, R172: a frame has cleared SLEEP REQUEST in SLEEP. -/
def wakeByLink (s : State) : State := if pinSource s then s else wakeUp s

/-- R40, R181: DEVICE RESET, the Host Port being active, before its report; the sleep sources are not yet judged. -/
def deviceResetActs (s : State) : State :=
  let s1 := clearOrderSide (cutLoad (resetHold s))
  let s2 := { s1 with motion := resetMotion s1.motion, power := { s1.power with state := .active } }
  let s3 := faultBits (resetCartridge (loadCartridgeLevels s2))
  if s3.health.supervisorOnly then inhibitController s3 else clearAction s3

/-- R40, R181: DEVICE RESET, the Host Port being active. -/
def deviceReset (s : State) : State := judgeSources (resetReport .deviceReset (deviceResetActs s))

/-- R180: the assertion of RST/. -/
def assertRst (s : State) : State :=
  let s1 := clearOrderSide (cutLoad (resetHold s))
  { s1 with
    motion := resetMotion s1.motion
    setup := .defaults
    power := { s1.power with state := .active, portWait := 0, rstFromSleep := s.power.state == .sleep }
    inputs := { s1.inputs with rstLow := true } }

/-- R180: what the release of RST/ does to a part that was asleep at the assertion: the changes of the wake. -/
def releaseFromSleep (s : State) : State :=
  let s1 := wakeChanges s
  { s1 with power := { s1.power with portWait := Config.portWaitMs } }

/-- R117, R153, R180: what the release of RST/ does otherwise. -/
def releaseAwake (s : State) : State := clearAction (faultBits (resetCartridge (loadCartridgeLevels s)))

/-- R180: the release of RST/. -/
def releaseRst (s : State) : State :=
  let s1 := { s with inputs := { s.inputs with rstLow := false } }
  let s2 := if s.power.rstFromSleep then releaseFromSleep s1 else releaseAwake s1
  judgeSources (resetReport .pinReset { s2 with power := { s2.power with rstFromSleep := false } })

/-- R158, R179: every block in its POR state with the levels sampled, before the faults found are recorded. The queue
of waiting commands is the model's own and is kept (log 33). -/
def porState (pins : Pins) (s : State) : State :=
  { State.reset with
    pending := s.pending
    reports := { State.reset.reports with stored := [] }
    inputs := .sampled pins
    place := { State.reset.place with cart := if pins.cartin then .inserted else .empty } }

/-- R179: a power-on reset. -/
def powerOnReset (pins : Pins) (s : State) : State :=
  let s1 := resetReport .powerOn (inhibitController (faultBits (porState pins s)))
  if pinSource s1 then forcedSleep s1 else s1

/-! ### One millisecond (R74, R94, R145, R171; log 4) -/

/-- R94: one sample: the debounced level changes when two consecutive samples show the level opposite to it. -/
def Sense.sample (x : Sense) (v : Bool) : Sense :=
  { x with last := v, level := if v == x.last && v != x.level then v else x.level }

/-- R94, R95, R145: every input but SLP/ sampled; a sample of WRFLT/ taken with the gate off counts as high. -/
def sampleInputs (s : State) : State :=
  { s with inputs := { s.inputs with
      cartin := s.inputs.cartin.sample s.inputs.cartin.pin
      wprot := s.inputs.wprot.sample s.inputs.wprot.pin
      drvflt := s.inputs.drvflt.sample s.inputs.drvflt.pin
      wrflt := s.inputs.wrflt.sample (s.inputs.wrflt.pin || !s.framer.gate)
      tensok := s.inputs.tensok.sample s.inputs.tensok.pin
      tempw := s.inputs.tempw.sample s.inputs.tempw.pin
      supok := s.inputs.supok.sample s.inputs.supok.pin } }

/-- R53, R94, R147: the part reacts in one step to all the samples of an instant; `before` is the CARTIN level that stood
before them. -/
def reactTo (before : Bool) (s : State) : State :=
  if s.inputs.cartin.level == before then judge s else followCartin s.inputs.cartin.level s

/-- R77, R82: the dwell timer or the settle wait has run out: the waiting move goes on. -/
def waitExpired (s : State) : State := settle (handOver (waitOver (ctlEnv s) s.motion) s)

/-- R77, R82: a millisecond of DWELL or of a settle wait. -/
def tickWaits (s : State) : State :=
  if s.motion.state = .dwell then
    if s.motion.dwellTimer ≤ 1 then waitExpired s
    else { s with motion := { s.motion with dwellTimer := s.motion.dwellTimer - 1 } }
  else if s.motion.settling then
    if s.motion.settleTimer ≤ 1 then waitExpired s
    else { s with motion := { s.motion with settleTimer := s.motion.settleTimer - 1 } }
  else s

/-- R173: a millisecond of the standby timer. -/
def tickStandby (s : State) : State :=
  if standbyCondition s then
    if standbyMs s ≤ s.power.standbyTimer + 1 then enterStandby s
    else { s with power := { s.power with standbyTimer := s.power.standbyTimer + 1 } }
  else { s with power := { s.power with standbyTimer := 0 } }

/-- R175: a millisecond of the deadline timer; RST/ low holds none. -/
def tickDeadline (s : State) : State :=
  if s.power.state = .sleepPending ∧ !s.inputs.rstLow then
    if deadlineMs s ≤ s.power.deadlineTimer + 1 then forcedSleep s
    else { s with power := { s.power with deadlineTimer := s.power.deadlineTimer + 1 } }
  else s

/-- R5: a millisecond of the wait after a wake. -/
def tickPort (s : State) : State := { s with power := { s.power with portWait := s.power.portWait - 1 } }

/-- R74: what the timers bring in a millisecond to a part that is awake and not held in reset. -/
def tickTimers (s : State) : State :=
  if s.inputs.rstLow ∨ s.power.state = .sleep then s else tickStandby (tickWaits (tickPort s))

/-- R53, R94, R145: the samples of a millisecond in a part that is awake, with all that follows from them. -/
def tickInputs (s : State) : State := settle (reactTo s.inputs.cartin.level (sampleInputs s))

/-- R74, R182: a millisecond in a part that is awake. A deadline that expires in it is applied before any ending that the
samples or the waits of the same millisecond bring. -/
def awakeTick (s : State) : State :=
  let s1 := tickDeadline s
  if s1.power.state = .sleep then s1 else tickTimers (tickInputs s1)

/-- R94, R145, R171: one millisecond: SLP/ in every state; the other inputs and the timers while awake. -/
def msTick (s : State) : State :=
  let p := s.inputs.slp.sample s.inputs.slp.pin
  let s1 := { s with inputs := { s.inputs with slp := p } }
  let s2 := if p.level == s.inputs.slp.level then s1 else followSlp s1
  if s.power.state = .sleep ∨ s2.power.state = .sleep then s2 else awakeTick s2

end Sys2Proof.Machine
end

