-- ==== Sys2Proof/Machine/HostOps.lean ====
section
/-! DEFINITION. What each address of the register window does (chapter 1), the staging and acceptance of orders and the
immediate orders (chapter 2), as operations. The guards of an inactive port (R5) stand at the accesses. -/

namespace Sys2Proof.Machine

/-! ### The Data Port (R12, R120 to R122) -/

/-- R120: one byte taken from a readable bank: DRAINING, or EMPTY after its last byte. -/
def Banks.takeByte (k : Banks) (id : BankId) : Banks :=
  let b := k.get id
  if b.length ≤ b.moved + 1 then k.release id else k.set id { b with state := .draining, moved := b.moved + 1 }

/-- R120: the next byte of a readable bank driven, and the bank moved on. -/
def takeData (id : BankId) (s : State) : State :=
  drive ((s.banks.get id).data.getD (s.banks.get id).moved 0) { s with banks := s.banks.takeByte id }

/-- R12, R120: a read of DATA. -/
def dataPortRead (s : State) : State :=
  match s.banks.readSide with
  | none => setDataError (drive 0 s)
  | some id => settle (takeData id s)

/-- R122: a byte appended to the FILLING bank, which is FULL WRITE at its length. -/
def Bank.append (b : Bank) (v : Byte) : Bank :=
  { b with data := b.data ++ [v], moved := b.moved + 1
           state := if b.length ≤ b.moved + 1 then .fullWrite else .filling }

/-- R122: a bank claimed by the first byte of a block for an order. -/
def fillingBank (e : QueueEntry) (v : Byte) : Bank :=
  { Bank.cleared with state := .filling, data := [v], moved := 1, owner := e.tag
                      length := dataLength (paramLength e.params) }

/-- R122: where a stored byte goes: the FILLING bank, or an EMPTY one claimed for the fill target. -/
def storeByte (e : QueueEntry) (v : Byte) (k : Banks) : Option Banks :=
  match k.fillSide with
  | some id => some (k.set id ((k.get id).append v))
  | none => k.toClaim.map fun id => k.claim id (fillingBank e v)

/-- R12, R122: a write of DATA. -/
def dataPortWrite (v : Byte) (s : State) : State :=
  match fillTarget s with
  | none => setDataError s
  | some e =>
    match storeByte e v s.banks with
    | none => setDataError s
    | some k => settle { s with banks := k }

/-! ### Reports, flags, parameters -/

/-- R47: the read index after a read of REPORT. -/
def Reports.advance (q : Reports) : Reports :=
  if q.stored.isEmpty then q else { q with readIndex := min 10 (q.readIndex + 1) }

/-- R47: a read of REPORT. -/
def readReport (s : State) : State :=
  let s1 := drive (reportByte s.reports) s
  { s1 with reports := s1.reports.advance }

/-- R48: an acknowledge; the start conditions are checked again. -/
def ackReport (s : State) : State := settle { s with reports := s.reports.acknowledge }

/-- R48: a rewind. -/
def rewindReport (s : State) : State := { s with reports := { s.reports with readIndex := 0 } }

/-- R48: a write to REPORT CONTROL, by its whole value. -/
def reportControl (v : Byte) (s : State) : State :=
  if v = 1 then ackReport s else if v = 2 then rewindReport s else s

/-- R10: a write to INTERRUPT ENABLE. -/
def setEnables (v : Byte) (s : State) : State :=
  { s with host := { s.host with intEnable := v.extractLsb' 0 2 } }

/-- R7: a write to FLAG CLEAR. -/
def clearFlags (v : Byte) (s : State) : State :=
  { s with host := { s.host with
      orderRejected := s.host.orderRejected && !v.getLsbD 0
      setupError := s.host.setupError && !v.getLsbD 1
      dataError := s.host.dataError && !v.getLsbD 2
      paramOverflow := s.host.paramOverflow && !v.getLsbD 3 } }

/-- R20: a byte offered to the parameter staging. -/
def stageParam (v : Byte) (s : State) : State :=
  if s.seq.staging.length < Config.stagingPlaces then
    { s with seq := { s.seq with staging := s.seq.staging ++ [v] } }
  else { s with host := { s.host with paramOverflow := true } }

/-! ### Setup Space (R15 to R18) -/

/-- R15: SETUP INDEX set. -/
def setIndex (v : Byte) (s : State) : State := { s with host := { s.host with setupIndex := v } }

/-- R15: SETUP INDEX steps on, from FFh to 00h. -/
def stepIndex (s : State) : State := setIndex (s.host.setupIndex + 1) s

/-- R18: a snapshot of an item taken, in place of an earlier one. -/
def takeSnap (base : Byte) (v : Nat) (s : State) : State :=
  { s with host := { s.host with snaps := (base, v) :: s.host.snaps.filter (fun e => e.1 != base) } }

/-- R18: the value that a read of a higher byte shows: the snapshot, or the live value where none was taken. -/
def snapValue (base : Byte) (live : Nat) (s : State) : Nat :=
  match s.host.snaps.find? (fun e => e.1 == base) with
  | some e => e.2
  | none => live

/-- The lowest index of an item, as a byte. -/
def ItemRow.index (r : ItemRow) : Byte := BitVec.ofNat 8 r.base

/-- R15, R18: the byte that a read of SETUP DATA shows, with its snapshot. -/
def readItem (r : ItemRow) (k : Nat) (s : State) : State :=
  let live := itemValue s r.item
  if k = 0 then
    let s1 := drive (valueByte live 0) s
    if r.size = 1 then s1 else takeSnap r.index live s1
  else drive (valueByte (snapValue r.index live s) k) s

/-- R15, R18: a read of SETUP DATA. -/
def setupRead (s : State) : State :=
  match itemAt s.host.setupIndex with
  | none => stepIndex (drive 0 s)
  | some r => stepIndex (readItem r (s.host.setupIndex.toNat - r.base) s)

/-- R16: a byte stored in an item's shadow, with its mark. -/
def storeShadow (index v : Byte) (s : State) : State :=
  { s with host := { s.host with shadow := (index, v) :: s.host.shadow.filter (fun e => e.1 != index) } }

/-- R16: a shadow byte that belongs to another item. -/
def outsideItem (r : ItemRow) (e : Byte × Byte) : Bool :=
  decide (e.1.toNat < r.base) || decide (r.base + r.size ≤ e.1.toNat)

/-- R16: the marks of an item cleared. -/
def clearShadow (r : ItemRow) (s : State) : State :=
  { s with host := { s.host with shadow := s.host.shadow.filter (outsideItem r) } }

/-- R16: a lower byte of an assembled value: the shadow byte if marked, the live byte otherwise. -/
def lowerByte (s : State) (r : ItemRow) (j : Nat) : Byte :=
  match s.host.shadow.find? (fun e => e.1 == BitVec.ofNat 8 (r.base + j)) with
  | some e => e.2
  | none => valueByte (itemValue s r.item) j

/-- R16: the assembled value of a write to the highest byte. -/
def assembled (s : State) (r : ItemRow) (v : Byte) : Nat :=
  bytesValue ((List.range (r.size - 1)).map (lowerByte s r) ++ [v])

/-- R173, R175: what a commit does to a timer already running. -/
def retime (item : Item) (s : State) : State :=
  match item with
  | .standbyDelay =>
    if s.setup.standbyDelay = 0 then { s with power := { s.power with standbyTimer := 0 } }
    else if standbyCondition s && decide (standbyMs s ≤ s.power.standbyTimer) then enterStandby s
    else s
  | .sleepDeadline =>
    if s.power.state = .sleepPending ∧ deadlineMs s ≤ s.power.deadlineTimer then forcedSleep s else s
  | _ => s

/-- R16: an assembled value committed to a writable item, or refused. -/
def commitItem (r : ItemRow) (v : Nat) (s : State) : State :=
  if r.item.accepts v then retime r.item { s with setup := s.setup.store r.item v } else setSetupError r.index s

/-- R153: a write handed to FAULT CLEAR. -/
def commitFaultClear (v : Nat) (s : State) : State :=
  if v = 1 ∧ !s.health.supervisorOnly then clearAction s else setSetupError 0x44 s

/-- R116: the partition, block number and tick of an assembled map entry. -/
def entryPart (v : Nat) : PartNo := BitVec.ofNat 2 v
/-- R116: bytes 1 to 3. -/
def entryNumber (v : Nat) : BlockNo := BitVec.ofNat 24 (v / 2 ^ 8)
/-- R116: bytes 4 to 6. -/
def entryTick (v : Nat) : Int := (BitVec.ofNat 24 (v / 2 ^ 32)).toInt

/-- R116: the map refuses a host insertion. -/
def entryRefused (s : State) (v : Nat) : Bool :=
  s.seq.active.isSome || !tableValid s.setup || !(s.setup.parts.get (entryPart v)).enabled ||
    !inRegion s.setup (entryPart v) (entryTick v)

/-- R116: an assembled entry handed to the Locator Map. -/
def commitEntry (v : Nat) (s : State) : State :=
  if entryRefused s v then setSetupError 0x62 s
  else { s with place := mapInsert (entryPart v) (entryNumber v) (entryTick v) .host s.place }

/-- R16: the commit of an assembled value, by the class of its item. -/
def commitValue (r : ItemRow) (v : Nat) (s : State) : State :=
  match r.item.cls with
  | .writable => commitItem r v s
  | .action => commitFaultClear v s
  | .window => commitEntry v s
  | .readOnly => s

/-- R15, R16: a byte written to an item: refused, shadowed, or the commit. -/
def writeItem (r : ItemRow) (v : Byte) (s : State) : State :=
  if r.item.cls = .readOnly then setSetupError s.host.setupIndex s
  else if s.host.setupIndex.toNat + 1 < r.base + r.size then storeShadow s.host.setupIndex v s
  else commitValue r (assembled s r v) (clearShadow r s)

/-- R15, R16: a write of SETUP DATA. -/
def setupWrite (v : Byte) (s : State) : State :=
  match itemAt s.host.setupIndex with
  | none => stepIndex (setSetupError s.host.setupIndex s)
  | some r => setIndex (s.host.setupIndex + 1) (writeItem r v s)

/-! ### Orders (R21, R22, R38 to R40) -/

/-- R22: the entry that an acceptance creates. -/
def newEntry (code : Byte) (s : State) : QueueEntry := { tag := s.seq.tag, code := code, params := s.seq.staging }

/-- R22: acceptance: the entry at the tail, the tag counter advanced, the staging emptied; the standby timer stops
(R173). -/
def acceptOrder (code : Byte) (s : State) : State :=
  { s with
    seq := { s.seq with queue := s.seq.queue ++ [newEntry code s], tag := s.seq.tag + 1, staging := [] }
    power := { s.power with standbyTimer := 0 } }

/-- R22: a rejected order leaves no trace but the flag. -/
def rejectOrder (s : State) : State := { s with host := { s.host with orderRejected := true } }

/-- R22: a queued order offered to the Order Queue. -/
def offerOrder (code : Byte) (s : State) : State :=
  if s.seq.queue.length < Config.queuePlaces then settle (acceptOrder code s) else rejectOrder s

/-- R38, R39, R43: the report of an immediate order that finds no order active; `n` is the number removed. -/
def idleReport (cause : Cause) (code : Byte) (n : Nat) (s : State) : Report :=
  { baseReport cause s with unsolicited := false, code := code, discarded := BitVec.ofNat 4 n }

/-- R38, R39, R46: an immediate order with no order active, at an instant at which `after` falls as well. -/
def idleStopBefore (after : State → State) (cause : Cause) (code : Byte) (s : State) : State :=
  pushReport (idleReport cause code s.seq.queue.length (cleared after (discard s))) (discard s)

/-- R38, R39: an immediate order with no order active. -/
def idleStop (cause : Cause) (code : Byte) (s : State) : State :=
  pushReport (idleReport cause code s.seq.queue.length (discard s)) (discard s)

/-- R38: HALT with an order active. A HALT already pending, or a lockout that has reached the order, makes it nothing
(R156). -/
def haltActive (a : Active) (s : State) : State :=
  if stopWanted s a then s else settle (interrupt { s with seq := { s.seq with haltPending := true } })

/-- R38: HALT. -/
def haltOrder (s : State) : State :=
  match s.seq.active with
  | none => idleStop .halted 0xE1 s
  | some a => haltActive a s

/-- R39: EMERGENCY STOP with an order active: a transport that moves is held, and the order is cut short. The step of its
instant may bring an intermediate rest: the model takes the transport as at rest there (DESIGN CHOICE, log 3). -/
def stopActs (s : State) : State := cutShort .emergencyStopped (if s.motion.moving then hold false s else s)

/-- R39: EMERGENCY STOP. -/
def emergencyStop (s : State) : State :=
  match s.seq.active with
  | none => idleStop .emergencyStopped 0xE2 s
  | some _ => settle (stopActs s)

/-- R21: a byte written to ORDER, by its value. -/
def orderByte (code : Byte) (s : State) : State :=
  if code = 0xE1 then haltOrder s
  else if code = 0xE2 then emergencyStop s
  else if code = 0xEA then deviceReset s
  else offerOrder code s

/-- R5, R21: a queued order's code written to ORDER, the port being active or not. -/
def writeOrder (code : Byte) (s : State) : State := if portActive s then offerOrder code s else s

/-! ### The register window (R4, R5) -/

/-- R4: a CS/ read of an address, the port being active. -/
def windowRead (addr : BitVec 3) (s : State) : State :=
  match addr.toNat with
  | 0 => dataPortRead s
  | 1 => drive (orderStatus s) s
  | 2 => drive (paramStatus s) s
  | 3 => readReport s
  | 4 => drive (statusByte s) s
  | 5 => drive (bankStatus s) s
  | 6 => drive s.host.setupIndex s
  | _ => setupRead s

/-- R4: a CS/ write of an address, the port being active. -/
def windowWrite (addr : BitVec 3) (v : Byte) (s : State) : State :=
  match addr.toNat with
  | 0 => dataPortWrite v s
  | 1 => orderByte v s
  | 2 => stageParam v s
  | 3 => reportControl v s
  | 4 => setEnables v s
  | 5 => clearFlags v s
  | 6 => setIndex v s
  | _ => setupWrite v s

/-- R5: a CS/ read with the port inactive returns 00h and changes nothing. -/
def csRead (act : State → State) (s : State) : State := if portActive s then act s else drive 0 s

/-- R5: a CS/ write with the port inactive is ignored. -/
def csWrite (act : State → State) (s : State) : State := if portActive s then act s else s

/-- R5, R13: a DACK/ strobe is an access in DMA mode with the port active; otherwise it moves no byte. What D7-D0 show at
a DACK/ read strobe in DMA mode with the port inactive is not stated: R5 has every read at an address return 00h, and a
DACK/ strobe has no address. The model leaves dataOut as it was (DESIGN CHOICE, log 40). -/
def dackStrobe (act : State → State) (s : State) : State := if portActive s && dmaMode s then act s else s

/-- R12, R13: a Data Port access by either path. -/
def dataAccess (via : BusPath) (byCs : State → State) (byDack : State → State) (s : State) : State :=
  match via with
  | .cs => byCs s
  | .dack => dackStrobe byDack s

/-- R4, R5: one CS/ access of the window. -/
def hostAccess (access : HostAccess) (s : State) : State :=
  match access with
  | .read addr => csRead (windowRead addr) s
  | .write addr v => csWrite (windowWrite addr v) s

/-- R14: what an ignored access with CS/ and DACK/ together leaves: a read drives 00h; DATA ERROR. -/
def conflictAccess (access : HostAccess) (s : State) : State :=
  match access with
  | .read _ => setDataError (drive 0 s)
  | .write _ _ => setDataError s

/-- R3, R13: an access with RD/ and WR/ together reaches the part: by CS/, or by DACK/ in DMA mode. -/
def strobeReaches (cs dack : Bool) (s : State) : Bool := cs || (dack && dmaMode s)

/-- R3: such an access sets DATA ERROR when made with DACK/ in DMA mode, or with CS/ at address 0. -/
def strobeAtData (cs dack : Bool) (addr : BitVec 3) (s : State) : Bool := (dack && dmaMode s) || (cs && addr == 0)

end Sys2Proof.Machine
end

