-- ==== Sys2Proof/Machine/HostPort.lean ====
section
/-! DEFINITION. The host-access commands (chapter 1, R20, R47, R48, R116, R153). -/

namespace Sys2Proof.Machine

/-- DATA_READ (R12, R13, R120). -/
def execDataRead (via : BusPath) (s : State) : Host.Outcome State Fault Refusal :=
  .next (dataAccess via (csRead dataPortRead) dataPortRead s)

/-- DATA_WRITE (R12, R13, R122). -/
def execDataWrite (via : BusPath) (value : Byte) (s : State) : Host.Outcome State Fault Refusal :=
  .next (dataAccess via (csWrite (dataPortWrite value)) (dataPortWrite value) s)

/-- STROBE_CONFLICT (R3, R7, R14). -/
def execStrobeConflict (cs dack : Bool) (addr : BitVec 3) (s : State) : Host.Outcome State Fault Refusal :=
  if !strobeReaches cs dack s then .next s
  else if portActive s && strobeAtData cs dack addr s then .next (setDataError (drive 0 s))
  else .next (drive 0 s)

/-- CS_DACK_CONFLICT (R14): in PIO mode the access proceeds as if DACK/ were released (R13). -/
def execCsDackConflict (access : HostAccess) (s : State) : Host.Outcome State Fault Refusal :=
  if portActive s && dmaMode s then .next (conflictAccess access s) else .next (hostAccess access s)

/-- PARAM (R20). -/
def execParam (value : Byte) (s : State) : Host.Outcome State Fault Refusal :=
  .next (csWrite (stageParam value) s)

/-- REPORT_READ (R47). -/
def execReportRead (s : State) : Host.Outcome State Fault Refusal :=
  .next (csRead readReport s)

/-- ACKNOWLEDGE (R48). -/
def execAcknowledge (s : State) : Host.Outcome State Fault Refusal :=
  .next (csWrite ackReport s)

/-- REPORT_REWIND (R48). -/
def execReportRewind (s : State) : Host.Outcome State Fault Refusal :=
  .next (csWrite rewindReport s)

/-- INTERRUPT_ENABLE (R10). -/
def execInterruptEnable (value : Byte) (s : State) : Host.Outcome State Fault Refusal :=
  .next (csWrite (setEnables value) s)

/-- FLAG_CLEAR (R7). -/
def execFlagClear (value : Byte) (s : State) : Host.Outcome State Fault Refusal :=
  .next (csWrite (clearFlags value) s)

/-- REGISTER_WRITE (R4, R15): a write at any address of the window (log 16). -/
def execRegisterWrite (addr : BitVec 3) (value : Byte) (s : State) : Host.Outcome State Fault Refusal :=
  .next (hostAccess (.write addr value) s)

/-- SETUP_DATA_READ (R15, R18). -/
def execSetupDataRead (s : State) : Host.Outcome State Fault Refusal :=
  .next (csRead setupRead s)

/-- SETUP_DATA_WRITE (R15 to R17). -/
def execSetupDataWrite (value : Byte) (s : State) : Host.Outcome State Fault Refusal :=
  .next (csWrite (setupWrite value) s)

/-- FAULT_CLEAR (R153): a write of SETUP DATA at index 44h (log 15). -/
def execFaultClear (value : Byte) (s : State) : Host.Outcome State Fault Refusal :=
  .next (csWrite (fun t => setupWrite value (setIndex 0x44 t)) s)

/-- MAP_ENTRY_COMMIT (R116): a write of SETUP DATA at index 69h (log 15). -/
def execMapEntryCommit (value : Byte) (s : State) : Host.Outcome State Fault Refusal :=
  .next (csWrite (fun t => setupWrite value (setIndex 0x69 t)) s)

end Sys2Proof.Machine
end

