-- ==== Sys2Proof/Machine/LinkOps.lean ====
section
/-! DEFINITION. The Maintenance Link as operations (chapter 9): the frame's registers, its validity, answers and commits. -/

namespace Sys2Proof.Machine

/-- The operations of R160. -/
inductive LinkOp where
  | peek
  | poke
  | peekClear
  | ping
  deriving DecidableEq, Repr

/-- R160: the operation bits. -/
def linkOpCode : LinkOp → BitVec 2
  | .peek => 0
  | .poke => 1
  | .peekClear => 2
  | .ping => 3

/-- R160: the 24 bits of a frame in the order shifted: operation, item, parity, value low byte, value high byte. -/
def frameBits (op : LinkOp) (f : FrameBits) : BitVec 24 :=
  linkOpCode op ++ f.item ++ bit f.parity ++ f.value.extractLsb' 0 8 ++ f.value.extractLsb' 8 8

/-- R160: the number of ones among the 24 bits is odd. -/
def oddOnes (w : BitVec 24) : Bool := (List.range 24).foldl (fun b i => b != w.getLsbD i) false

/-- R164, R165: an assigned item. -/
def itemAssigned (item : BitVec 5) : Bool := decide (item.toNat ≤ 14)

/-- R164: an item that can be written. -/
def itemWritable (item : BitVec 5) : Bool := item == 4 || item == 5 || item == 6

/-- R163: the item a frame names is one its operation may use. -/
def itemAllowed (op : LinkOp) (item : BitVec 5) : Bool :=
  match op with
  | .peek => itemAssigned item
  | .poke => itemWritable item
  | .peekClear => itemAssigned item
  | .ping => true

/-- R161: an operation that reads. -/
def opReads (op : LinkOp) : Bool := op == .peek || op == .peekClear

/-! ### The input register -/

/-- R160: the operation that two bits name. -/
def linkOpOf (code : BitVec 2) : LinkOp :=
  match code.toNat with
  | 0 => .peek
  | 1 => .poke
  | 2 => .peekClear
  | _ => .ping

/-- R160: the operation in byte 0 of a frame. -/
def byteOp (b : Byte) : LinkOp := linkOpOf (b.extractLsb' 6 2)

/-- R160: the item index in byte 0 of a frame. -/
def byteItem (b : Byte) : BitVec 5 := b.extractLsb' 1 5

/-- R160: byte 0 of a register that has taken all 24 bits. -/
def regByte0 (reg : BitVec 24) : Byte := reg.extractLsb' 16 8

/-- R160: the value in a register that has taken all 24 bits, sent low byte first. -/
def regValue (reg : BitVec 24) : BitVec 16 := reg.extractLsb' 0 8 ++ reg.extractLsb' 8 8

/-- R163: a frame of this many edges, with these bits, is valid. -/
def regValid (edges : Nat) (reg : BitVec 24) : Bool :=
  decide (edges = 24) && oddOnes reg && itemAllowed (byteOp (regByte0 reg)) (byteItem (regByte0 reg))

/-- R163: the frame that an operation and its operand spell is valid. -/
def frameValid (op : LinkOp) (f : FrameBits) : Bool := regValid f.edges (frameBits op f)

/-- R159, R160: what the supervisor sends in a frame: the 24 bits, and the levels of LDI at the edges after them. -/
structure Sent where
  bits : BitVec 24
  late : List Bool
  deriving DecidableEq, Repr

/-- R159, R160: what the sender of an operation puts on LDI. -/
def frameSent (op : LinkOp) (f : FrameBits) : Sent := { bits := frameBits op f, late := f.late }

/-- R159: the level of LDI at a frame's rising edge number `k`, from 0. -/
def edgeBit (w : Sent) (k : Nat) : Bool := if k < 24 then w.bits.getLsbD (23 - k) else w.late.getD (k - 24) false

/-- R159: `n` rising edges of LCLK, from edge number `k`, shift their bits into the register. -/
def shiftBits (w : Sent) : Nat → Nat → BitVec 24 → BitVec 24
  | 0, _, reg => reg
  | n + 1, k, reg => shiftBits w n (k + 1) (reg <<< 1 ||| BitVec.zeroExtend 24 (bit (edgeBit w k)))

/-- R161, R169: the value snapshot that byte 0 of a frame calls for; zero in SLEEP. R169 has a frame selected in SLEEP that
ends after the wake answered with zeros, for they are shifted out already, and says nothing of a wake or an entry before
the 8th edge: the power state at that edge decides (DESIGN CHOICE, log 14). -/
def byteSnapshot (b : Byte) (s : State) : BitVec 16 :=
  if s.power.state == .sleep || !opReads (byteOp b) then 0 else (linkItem s (byteItem b)).getD 0

/-- R167: the pending pair capture that byte 0 of a frame calls for. -/
def bytePair (b : Byte) (s : State) : Option PairCapture :=
  if !opReads (byteOp b) then none
  else
    match (byteItem b).toNat with
    | 8 => some (.tick s.motion.tick)
    | 10 => some (.block (logicalBlock s) (shownPart s) s.place.position.isSome)
    | _ => none

/-- The registers of the link's frame changed. -/
def onFrame (f : FrameRegs → FrameRegs) (s : State) : State := { s with link := { s.link with frame := f s.link.frame } }

/-- R159: the fall of LSEL/: the register and the edge count cleared, the Health Summary latched. -/
def selectFrame (s : State) : State :=
  onFrame (fun _ => { FrameRegs.blank with selected := true, summary := healthSummary s }) s

/-- R161, R167: byte 0 is complete: the value snapshot and any pair capture are taken. -/
def takeSnapshot (s : State) : State :=
  let b : Byte := s.link.frame.shiftIn.extractLsb' 0 8
  onFrame (fun r => { r with snapshot := byteSnapshot b s, pair := bytePair b s }) s

/-- R159: the frame's rising edges up to a number of them, with what `w` sends. -/
def shiftTo (w : Sent) (edges : Nat) (s : State) : State :=
  onFrame (fun r => { r with shiftIn := shiftBits w (edges - r.edges) r.edges r.shiftIn, edges := max r.edges edges }) s

/-- R159, R161: rising edges up to a number of them; the snapshot is taken at the 8th. -/
def clockEdges (w : Sent) (edges : Nat) (s : State) : State :=
  if s.link.frame.edges < 8 ∧ 8 ≤ edges then shiftTo w edges (takeSnapshot (shiftTo w 8 s)) else shiftTo w edges s

/-- R159: LCLK stands high since the frame's last rising edge, or has fallen again. -/
def setClock (rose high : Bool) (s : State) : State := onFrame (fun r => { r with clock := high && (rose || r.clock) }) s

/-- R159, R161: clocking up to a number of rising edges, to a level of LCLK. -/
def clockFrame (w : Sent) (edges : Nat) (high : Bool) (s : State) : State :=
  setClock (decide (s.link.frame.edges < edges)) high (clockEdges w edges s)

/-- R163: an invalid frame: LINK ERROR, the count, the pair capture dropped. -/
def linkError (s : State) : State :=
  { s with link := { s.link with
      error := true, errorCount := bump s.link.errorCount, frame := { s.link.frame with pair := none } } }

/-- R163: a valid frame clears LINK ERROR. -/
def clearLinkError (s : State) : State := { s with link := { s.link with error := false } }

/-- R167: a pending pair capture dropped. -/
def dropPair (s : State) : State :=
  { s with link := { s.link with frame := { s.link.frame with pair := none } } }

/-- R167: the pending pair capture installed. -/
def installPair (s : State) : State :=
  match s.link.frame.pair with
  | none => s
  | some (.tick v) => dropPair { s with link := { s.link with tickPair := some v } }
  | some (.block n p k) => dropPair { s with link := { s.link with blockPair := some { next := n, part := p, known := k } } }

/-! ### Commits -/

/-- R148: FAULT MASK committed; masking and unmasking act at once. -/
def commitMask (v : BitVec 16) (s : State) : State :=
  settle (judge { s with health := { s.health with mask := v.extractLsb' 0 6 } })

/-- R156: LOCKED OUT reaches an active order; one that it has reached already is stopping. -/
def lockReaches (a : Active) (s : State) : State :=
  if a.lockPending then s else settle (interrupt (onActive (fun b => { b with lockPending := true }) s))

/-- R156: LOCKOUT set. -/
def lockoutSet (s : State) : State :=
  match s.seq.active with
  | some a => lockReaches a s
  | none => if s.inputs.rstLow then s else pushUnsolicited .lockoutSet s

/-- R57, R156: LOCKOUT cleared. -/
def lockoutCleared (s : State) : State :=
  if s.seq.active.isSome || s.inputs.rstLow then s else pushUnsolicited .lockoutCleared s

/-- R155, R156: SUPERVISOR CONTROL committed. -/
def commitControl (v : BitVec 16) (s : State) : State :=
  let s1 := { s with health := { s.health with control := v.extractLsb' 0 4 } }
  if s1.health.lockout && !s.health.lockout then lockoutSet s1
  else if !s1.health.lockout && s.health.lockout then lockoutCleared s1
  else s1

/-- R164, R172: POWER CONTROL committed in a part that is awake. -/
def commitSleepRequest (v : BitVec 16) (s : State) : State :=
  let s1 := { s with link := { s.link with sleepReq := v.getLsbD 0 } }
  if v.getLsbD 0 && !s.link.sleepReq then linkSourceSet s1
  else if !v.getLsbD 0 && s.link.sleepReq then linkSourceClear s1
  else s1

/-- R163, R164: the commit of a POKE. -/
def commitPoke (item : BitVec 5) (v : BitVec 16) (s : State) : State :=
  match item.toNat with
  | 4 => commitMask v s
  | 5 => commitControl v s
  | 6 => commitSleepRequest v s
  | _ => s

/-- R166: the clear effect of a PEEK-CLEAR. -/
def commitClear (item : BitVec 5) (s : State) : State :=
  match item.toNat with
  | 1 => { s with health := { s.health with powerOnFlag := false } }
  | 3 => clearAction s
  | _ => s

/-- R163: the commit of a valid frame, by its operation. -/
def commitFrame (op : LinkOp) (item : BitVec 5) (v : BitVec 16) (s : State) : State :=
  match op with
  | .poke => commitPoke item v s
  | .peekClear => commitClear item s
  | _ => s

/-- R169: the one frame honoured in SLEEP: a POKE of POWER CONTROL with bit 0 clear. -/
def honouredAsleep (op : LinkOp) (item : BitVec 5) (v : BitVec 16) : Bool := op == .poke && item == 6 && !v.getLsbD 0

/-- R169: a valid frame whose deselect falls in SLEEP. -/
def commitAsleep (op : LinkOp) (item : BitVec 5) (v : BitVec 16) (s : State) : State :=
  if honouredAsleep op item v then wakeByLink { s with link := { s.link with sleepReq := false } } else s

/-! ### The deselect -/

/-- R163, R167, R169: the rise of LSEL/ judges the 24 bits shifted in; the power state at this moment governs. -/
def judgeFrame (s : State) : State :=
  let reg := s.link.frame.shiftIn
  let op := byteOp (regByte0 reg)
  let item := byteItem (regByte0 reg)
  if !regValid s.link.frame.edges reg then linkError s
  else if s.power.state = .sleep then commitAsleep op item (regValue reg) (dropPair (clearLinkError s))
  else commitFrame op item (regValue reg) (installPair (clearLinkError s))

/-- R53, R156: the frame to be judged is a valid POKE that sets LOCKOUT in a part that is awake. -/
def setsLockout (s : State) : Bool :=
  let reg := s.link.frame.shiftIn
  regValid s.link.frame.edges reg && byteOp (regByte0 reg) == .poke && byteItem (regByte0 reg) == 5 &&
    (regValue reg).getLsbD 0 && !s.health.lockout && s.power.state != .sleep

/-- R46, R152: the frame to be judged is a valid PEEK-CLEAR of FAULT RECORD in a part that is awake. -/
def clearsFaults (s : State) : Bool :=
  let reg := s.link.frame.shiftIn
  regValid s.link.frame.edges reg && byteOp (regByte0 reg) == .peekClear && byteItem (regByte0 reg) == 3 &&
    s.power.state != .sleep

end Sys2Proof.Machine
end

