-- ==== Sys2Proof/Machine/MotionRows.lean ====
section
/-! DEFINITION. The commands of the Capstan Motion Controller (chapter 5). -/

namespace Sys2Proof.Machine

/-- The marker sensors' levels. -/
def setMarkers (bots eots : Bool) (s : State) : State :=
  { s with inputs := { s.inputs with bots := bots, eots := eots } }

/-- R64: the steps of one move in which the head passes a whole header field. Forward the field begins at the counter's
value before the first of twelve steps. In reverse a boundary is crossed by the step that leaves its value, so the step
that crosses the first boundary counts as well. -/
def fieldSteps (dir : Dir) : Nat :=
  match dir with
  | .forward => Config.headerTicks
  | .reverse => Config.headerTicks + 1

/-- R64: the place of the header field that ends with a step from `before` to `after`: the head has passed it in one
direction, in one move. -/
def fieldPassed (bits : Option (BitVec 64)) (before after : Motion) : Option FieldPlace :=
  if after.run < fieldSteps before.dir then none
  else
    match before.dir with
    | .forward => some { dir := .forward, tick := after.tick, bits := bits }
    | .reverse => some { dir := .reverse, tick := before.tick, bits := bits }

/-- R64, R66: the header field that the Framer has read with a step: none while the write gate is on, for what passes then is
what it writes itself. The gate is the one that stood as the field's last step was made, also where it was on during only
a part of the field, of which R66 does not speak (DESIGN CHOICE, log 18). -/
def fieldSeen (header : Option (BitVec 64)) (o : Ctl) (s : State) : Option FieldPlace :=
  if s.framer.gate then none else fieldPassed header s.motion o.motion

/-- R74: one step of the controller, with its events; the Framer learns what field may have ended (R64). -/
def stepCapstan (header : Option (BitVec 64)) (s : State) : State :=
  let o := stepOnce (ctlEnv s) s.motion
  handOver o { s with framer := { s.framer with field := fieldSeen header o s } }

/-- R53, R64, R74, R77 to R92: a capstan step, with the marker levels that stand after it (log 9) and the header field that
ends with it; `act` falls at its instant, before a rest that the step comes to. At rest no step is issued. -/
def stepAround (act : State → State) (bots eots : Bool) (header : Option (BitVec 64)) (s : State) : State :=
  if s.motion.moving then settleAround act (stepCapstan header (setMarkers bots eots s)) else act s

/-- R40, R91: what stands of a step that a DEVICE RESET overrides: the counter, the controller's own state, and the latch and
the inhibit of a stall. The order that it would have ended, and the header field that ended with it, are the reset's. -/
def bareStep (bots eots : Bool) (s : State) : State :=
  if s.motion.moving then
    let t := stepCapstan none (setMarkers bots eots s)
    if t.events.contains .stall && !stallMasked t then inhibitController (latchStall t) else t
  else s

/-- R91: the count of steps since the last TACH pulse set to 0. -/
def clearStall (s : State) : State := { s with motion := { s.motion with stallCount := 0 } }

/-- R88: a zeroing seek that still looks for its edge. -/
def seekRunning (m : Motion) : Bool := m.moving && (m.seek == .offMarker || m.seek == .seeking)

/-- R88: the seek is exhausted: boundary SEEK EXHAUSTED, and an unplanned controlled stop. -/
def exhaustSeek (s : State) : State :=
  let o := beginStop (profile s) (seekOver s.motion)
  handOver { motion := o.motion, events := .boundary .seekExhausted :: o.events } s

/-- DWELL_EXPIRY (R77, R82). -/
def execDwellExpiry (s : State) : Host.Outcome State Fault Refusal :=
  if s.motion.state = .dwell then .next (waitExpired s) else .next s

/-- SETTLE_DELAY_EXPIRY (R77). -/
def execSettleDelayExpiry (s : State) : Host.Outcome State Fault Refusal :=
  if s.motion.settling then .next (waitExpired s) else .next s

/-- TACH_PULSE (R91). -/
def execTachPulse (s : State) : Host.Outcome State Fault Refusal :=
  .next (clearStall s)

/-- STALL (R91): the stall count has reached STALL WINDOW. -/
def execStall (s : State) : Host.Outcome State Fault Refusal :=
  if s.motion.moving then .next (settle (stallFault (clearStall s))) else .next s

/-- SEEK_EXHAUSTED (R88). -/
def execSeekExhausted (s : State) : Host.Outcome State Fault Refusal :=
  if seekRunning s.motion then .next (settle (exhaustSeek s)) else .next s

end Sys2Proof.Machine
end

