-- ==== Sys2Proof/Machine/Sensors.lean ====
section
/-! DEFINITION. The sensor commands (R94 to R96, R145). -/

namespace Sys2Proof.Machine

/-- R94, R95, R145: the inputs are sampled: the part is awake. -/
def sampling (s : State) : Bool := s.power.state != .sleep

/-- A level set on a pin and taken as debounced. -/
def Sense.settled (v : Bool) : Sense := .sampled v

/-- The level of a pin that is not sampled. -/
def Sense.onPin (x : Sense) (v : Bool) : Sense := { x with pin := v }

/-- A change that reaches the debounced level: one reported as such, of an input that is sampled (log 10). -/
def reaches (how : Change) (s : State) : Bool := how == .level && sampling s

/-- CARTIN changes on the pin; where the change reaches the debounced level, it acts (R94, R96). -/
def cartinChange (act : State → State) (how : Change) (v : Bool) (s : State) : State :=
  if reaches how s then settle (cartinAround act v { s with inputs := { s.inputs with cartin := .settled v } })
  else act { s with inputs := { s.inputs with cartin := s.inputs.cartin.onPin v } }

/-- R95: WPROT changes; only its debounced level follows. -/
def wprotChange (how : Change) (v : Bool) (s : State) : State :=
  if reaches how s then { s with inputs := { s.inputs with wprot := .settled v } }
  else { s with inputs := { s.inputs with wprot := s.inputs.wprot.onPin v } }

/-- R145: the debounced level of a health input replaced. WRFLT/ counts as low only while the write gate is on. -/
def healthLevel (input : HealthInput) (v : Bool) (s : State) : Inputs :=
  match input with
  | .drvflt => { s.inputs with drvflt := .settled v }
  | .wrflt =>
    if v || s.framer.gate then { s.inputs with wrflt := .settled v }
    else { s.inputs with wrflt := s.inputs.wrflt.onPin v }
  | .tensok => { s.inputs with tensok := .settled v }
  | .tempw => { s.inputs with tempw := .settled v }
  | .supok => { s.inputs with supok := .settled v }

/-- R145: the level on the pin of a health input. -/
def healthPin (input : HealthInput) (v : Bool) (x : Inputs) : Inputs :=
  match input with
  | .drvflt => { x with drvflt := x.drvflt.onPin v }
  | .wrflt => { x with wrflt := x.wrflt.onPin v }
  | .tensok => { x with tensok := x.tensok.onPin v }
  | .tempw => { x with tempw := x.tempw.onPin v }
  | .supok => { x with supok := x.supok.onPin v }

/-- R145, R147: a health input changes; where the change reaches the debounced level, the Health Monitor reacts in the
same step. -/
def healthChange (act : State → State) (how : Change) (input : HealthInput) (v : Bool) (s : State) : State :=
  if reaches how s then settle (beforeRest act (judge { s with inputs := healthLevel input v s }))
  else act { s with inputs := healthPin input v s.inputs }

/-- R94, R95, R145: a level input changes; `act` falls at that instant, after the sample's effects (R148, R152) and before
a rest that they come to (R53). A change of CARTIN brings the marker levels that stand after it (log 9). -/
def inputAround (act : State → State) (how : Change) (line : LevelInput) (v : Bool) (s : State) : State :=
  match line with
  | .health input => healthChange act how input v s
  | .wprot => act (wprotChange how v s)
  | .cartin bots eots => cartinChange act how v (setMarkers bots eots s)

/-- R40, R145: what stands of a change of an input that a DEVICE RESET overrides: the level, and the fault bits of the
conditions that hold at it, the write gate being as it was, with the motion inhibit they impose. -/
def bareInput (how : Change) (line : LevelInput) (v : Bool) (s : State) : State :=
  match line with
  | .health input =>
    if reaches how s then inhibitController (faultBits { s with inputs := healthLevel input v s })
    else { s with inputs := healthPin input v s.inputs }
  | .wprot => wprotChange how v s
  | .cartin bots eots =>
    let t := setMarkers bots eots s
    { t with inputs := { t.inputs with
        cartin := if reaches how s then .settled v else t.inputs.cartin.onPin v } }

/-- CARTRIDGE_INSERTED (R94, R58), with the marker levels of the new tape (log 9). -/
def execCartridgeInserted (bots eots : Bool) (s : State) : Host.Outcome State Fault Refusal :=
  .next (cartinChange id .level true (setMarkers bots eots s))

/-- CARTRIDGE_REMOVED (R53, R58, R96). -/
def execCartridgeRemoved (s : State) : Host.Outcome State Fault Refusal := .next (cartinChange id .level false s)

end Sys2Proof.Machine
end

