-- ==== Sys2Proof/Machine/Instants.lean ====
section
/-! DEFINITION. What falls at one instant: an event of the mechanism, a host access and a link commit (R12, R22, R28, R34,
R40, R46, R49, R52, R53, R92, R148, R152, R168, R182, R186; log 3), and the rows that carry a host access of theirs. -/

namespace Sys2Proof.Machine

/-! ### The event -/

/-- An event to which the part reacts: a step of a moving transport (R74), or a debounced level that the Health Monitor or the
cartridge follows (R94, R145); WPROT moves only its level (R95), and a change of a pin only the pin (log 10). -/
def reacts (b : Beside) (s : State) : Bool :=
  match b with
  | .nothing => false
  | .input line how _ => reaches how s && line != .wprot
  | .step _ _ _ => s.motion.moving

/-- R53: the event of the mechanism; `act` is what falls at its instant: after the effects of the sample or of the step, and
before a rest or an ending that they bring. -/
def eventAround (b : Beside) (act : State → State) (s : State) : State :=
  match b with
  | .nothing => act s
  | .input line how high => inputAround act how line high s
  | .step bots eots header => stepAround act bots eots header s

/-- R40: what stands of an event that a DEVICE RESET of its instant overrides; an event without a reaction stands whole. -/
def bareEvent (b : Beside) (s : State) : State :=
  match b with
  | .nothing => s
  | .input line how high => bareInput how line high s
  | .step bots eots _ => bareStep bots eots s

/-! ### The link commit -/

/-- R163: a deselect, if there is one, is judged. -/
def commitAt (deselect : Bool) (s : State) : State := if deselect then judgeFrame s else s

/-- R53: a lockout that a deselect brings reaches the order at the instant of an event. -/
def lockFalls (b : Beside) (deselect : Bool) (s : State) : Bool :=
  deselect && b != .nothing && setsLockout s && s.seq.active.isSome

/-- R53: that lockout has reached the order when the event acts, so that a rest is its safe point. -/
def lockArises (b : Beside) (deselect : Bool) (s : State) : State :=
  if lockFalls b deselect s then onActive (fun a => { a with lockPending := true }) s else s

/-- R53, R168: the event with `act` and then the commit of its instant. A HALT or a lockout that waits, `waits`, has
competed at a rest that the event brought (R52); otherwise it takes effect at the safe point where the order now stands. -/
def eventCommits (b : Beside) (deselect waits : Bool) (act : State → State) (s : State) : State :=
  let t := eventAround b (fun u => commitAt deselect (act u)) (lockArises b deselect s)
  if waits || lockFalls b deselect s then settle (interrupt t) else t

/-! ### The host access -/

/-- Where a host access stands at the instant of an event: before it, between its effects and the ending it brings, or after
that ending. -/
inductive Turn where
  | before
  | between
  | after
  deriving DecidableEq, Repr

/-- R31, R186: a write of SETUP DATA at this index commits an item that only a departure reads. -/
def departureIndex (index : Byte) : Bool :=
  (itemAt index).any fun r =>
    r.item.cls == .writable && r.item != .clockRate && r.item != .dataPath && r.item != .standbyDelay &&
      r.item != .sleepDeadline && r.item != .mapSelect

/-- The turn of a write to SETUP DATA: SLEEP DEADLINE comes before the event, for a forced entry comes before an ending of
its instant (R182); a departure item after it, for it lands after a departure of its instant (R186); any other item acts
as it is committed, FAULT CLEAR after the sample's effects (R152) and before a report of the same step is built (R46). -/
def setupTurn (s : State) : Turn :=
  if s.host.setupIndex = 0x1F then .before
  else if s.seq.active.isSome && departureIndex s.host.setupIndex then .after
  else .between

/-- The turn of a host access. In an idle part an access that a departure may follow comes before the event, for the event
falls after the departure and its checks (R28, R49, R53): an ORDER write and an access of DATA. With an order active an
ORDER write comes after the event, the discard or the departure that it brings, and the commit (R22, R34). An acknowledge
comes before the event always (R48). -/
def accessTurn (b : Beside) (access : HostAccess) (s : State) : Turn :=
  if b = .nothing then .before
  else
    match access with
    | .read addr => if addr = 0 && s.seq.active.isNone then .before else .between
    | .write addr _ =>
      match addr.toNat with
      | 0 => if s.seq.active.isNone then .before else .between
      | 1 => if s.seq.active.isNone then .before else .after
      | 3 => .before
      | 7 => setupTurn s
      | _ => .between

/-- R12, R120: a read of DATA at the instant of an event; what follows it waits for the commit of the instant. -/
def dataReadBeside (s : State) : State :=
  match s.banks.readSide with
  | none => setDataError (drive 0 s)
  | some id => takeData id s

/-- R12, R122: a write of DATA there. -/
def dataWriteBeside (v : Byte) (s : State) : State :=
  match (fillTarget s).bind fun e => storeByte e v s.banks with
  | none => setDataError s
  | some k => { s with banks := k }

/-- R4, R5: a host access between an event's effects and its ending. -/
def accessBeside (access : HostAccess) (s : State) : State :=
  match access with
  | .read 0 => csRead dataReadBeside s
  | .write 0 v => csWrite (dataWriteBeside v) s
  | _ => hostAccess access s

/-- R48: how many of the stored reports stay stored at a host access. -/
def keptReports (access : HostAccess) (s : State) : Nat :=
  match access with
  | .write 3 v => s.reports.stored.length - (if portActive s && v == 1 then 1 else 0)
  | _ => s.reports.stored.length

/-- R46, R168: a host access that comes before the event and the commit of its instant; where the commit is a clear action,
the FAULT RECORDED flags of the reports that the access brings are taken after it. -/
def accessFirst (access : HostAccess) (b : Beside) (deselect : Bool) (s : State) : State :=
  let t := hostAccess access s
  if deselect && clearsFaults s then reflag (eventCommits b deselect false id) (keptReports access s) t else t

/-- R168: an access that is no immediate order, with the event and the commit of its instant. -/
def accessAtInstant (access : HostAccess) (b : Beside) (deselect : Bool) (s : State) : State :=
  match accessTurn b access s with
  | .before => eventCommits b deselect false id (accessFirst access b deselect s)
  | .between => eventCommits b deselect false (accessBeside access) s
  | .after => hostAccess access (eventCommits b deselect false id s)

/-! ### The immediate orders -/

/-- R38, R39, R46, R168: an immediate order that finds no order active comes before the event and the commit of its instant;
only the FAULT RECORDED flag of its report is taken after a clear action among them. -/
def idleStopAtInstant (cause : Cause) (code : Byte) (b : Beside) (deselect : Bool) (s : State) : State :=
  eventCommits b deselect false id (idleStopBefore (eventCommits b deselect false id) cause code s)

/-- R38, R52, R53, R168: HALT at the instant of an event and a commit. It waits already when they act. -/
def haltAtInstant (b : Beside) (deselect : Bool) (s : State) : State :=
  match s.seq.active with
  | none => idleStopAtInstant .halted 0xE1 b deselect s
  | some a =>
    if stopWanted s a then eventCommits b deselect false id s
    else eventCommits b deselect true id { s with seq := { s.seq with haltPending := true } }

/-- R39, R52, R53, R168: EMERGENCY STOP at the instant of an event and a commit: after the event's effects and before the
commit it holds a transport that still moves, and the order ends with the cause that stands highest. -/
def emergencyAtInstant (b : Beside) (deselect : Bool) (s : State) : State :=
  match s.seq.active with
  | none => idleStopAtInstant .emergencyStopped 0xE2 b deselect s
  | some _ => settle (eventCommits b deselect false stopActs s)

/-- R40, R59, R168, R181: DEVICE RESET at the instant of an event and a commit. It overrides the event: no order is ended, and
none departs, by what it overrides (DESIGN CHOICE, log 3, for what stands of the event). Then the commit lands. The
reset's report is the only one, and the sleep sources are judged once the commit has landed. -/
def resetAtInstant (b : Beside) (deselect : Bool) (s : State) : State :=
  let s1 := resetReportBefore (commitAt deselect) .deviceReset (deviceResetActs (bareEvent b s))
  judgeSources { commitAt deselect s1 with reports := s1.reports }

/-- R21: the codes of the immediate orders. -/
def immediateCode (code : Byte) : Bool := code == 0xE1 || code == 0xE2 || code == 0xEA

/-- R21, R40, R53: an immediate order at the instant of an event and a commit. -/
def immediateAtInstant (code : Byte) (b : Beside) (deselect : Bool) (s : State) : State :=
  if code = 0xE1 then haltAtInstant b deselect s
  else if code = 0xE2 then emergencyAtInstant b deselect s
  else resetAtInstant b deselect s

/-! ### One instant -/

/-- R53, R168: one instant at which an event `b` of the mechanism, a host access and, with `deselect`, a link commit may
fall. With an order active the commit comes before an ending that the event brings, so that it competes and a sleep
request decides what follows (R53, R182). R168 puts a host write before a link commit, and R22 and R34 put an ORDER write
after an ending and its discard: beside an event the model follows R22 and R34, so the ORDER write comes last, and finds a
part that a deferred entry of that ending has put to sleep: it is ignored there as R5 has it, for R182 orders a host write
only against a forced entry (DESIGN CHOICE, log 3). -/
def instantWith (host : Option HostAccess) (b : Beside) (deselect : Bool) (s : State) : State :=
  match host with
  | none => eventCommits b deselect false id s
  | some (.write 1 code) =>
    if portActive s && immediateCode code then immediateAtInstant code b deselect s
    else accessAtInstant (.write 1 code) b deselect s
  | some access => accessAtInstant access b deselect s

/-- R95: a change of WPROT, which only the departure of a LOAD reads. -/
def changesTab (b : Beside) : Bool :=
  match b with
  | .input .wprot _ _ => true
  | _ => false

/-- The same, an event without a reaction only setting its level: WPROT after a departure of that instant (R28, R53, R95), any
other first. -/
def instant (host : Option HostAccess) (b : Beside) (deselect : Bool) (s : State) : State :=
  if reacts b s then instantWith host b deselect s
  else if changesTab b then bareEvent b (instantWith host .nothing deselect s)
  else instantWith host .nothing deselect (bareEvent b s)

/-- CAPSTAN_STEP (R53, R64, R74, R77 to R92), with a host access of the same instant (log 3). -/
def execCapstanStep (input : StepInput) (header : Option (BitVec 64)) (s : State) : Host.Outcome State Fault Refusal :=
  .next (instant input.host (.step input.bots input.eots header) false s)

/-- HEALTH_INPUT_CHANGE (R53, R145, R147, R150, R151), and the WPROT and CARTIN levels (R94, R95, log 11), with a host access
of the same instant (log 3). -/
def execHealthInputChange (input : InputChange) (high : Bool) (s : State) : Host.Outcome State Fault Refusal :=
  .next (instant input.host (.input input.line input.how high) false s)

end Sys2Proof.Machine
end

