-- ==== Sys2Proof/Machine/LinkRows.lean ====
section
/-! DEFINITION. The frames of the Maintenance Link (chapter 9), and its commands. -/

namespace Sys2Proof.Machine

/-- R53, R159, R168: the rise of LSEL/, with what else falls at that instant. -/
def deselectFrame (host : Option HostAccess) (b : Beside) (s : State) : State :=
  instant host b true (onFrame (fun r => { r with selected := false }) s)

/-- R159: the select and the first edges of a frame. A frame still selected has ended before its line can fall again. -/
def openFrame (w : Sent) (edges : Nat) (high : Bool) (s : State) : State :=
  clockFrame w edges high (selectFrame (if s.link.frame.selected then deselectFrame none .nothing s else s))

/-- R159, R170: further edges of a frame; with no frame in progress LCLK and LDI are ignored. -/
def continueFrame (w : Sent) (edges : Nat) (high : Bool) (s : State) : State :=
  if s.link.frame.selected then clockFrame w edges high s else s

/-- R159, R170: the last edges and the deselect of a frame; with no frame in progress LCLK and LDI are ignored. -/
def closeFrame (w : Sent) (f : FrameBits) (s : State) : State :=
  if s.link.frame.selected then deselectFrame f.host f.beside (clockFrame w f.edges f.clock s)
  else instant f.host f.beside false s

/-- R159 to R170: the part of a frame that a command stands for (log 14). -/
def linkFrame (w : Sent) (f : FrameBits) (s : State) : State :=
  match f.part with
  | .whole => closeFrame w f (openFrame w f.edges f.clock s)
  | .opening => openFrame w f.edges f.clock s
  | .middle => continueFrame w f.edges f.clock s
  | .closing => closeFrame w f s

/-- PEEK (R161, R163, R167). -/
def execPeek (frame : FrameBits) (s : State) : Host.Outcome State Fault Refusal :=
  .next (linkFrame (frameSent .peek frame) frame s)

/-- POKE (R163, R164). -/
def execPoke (frame : FrameBits) (s : State) : Host.Outcome State Fault Refusal :=
  .next (linkFrame (frameSent .poke frame) frame s)

/-- PEEK_CLEAR (R166). -/
def execPeekClear (frame : FrameBits) (s : State) : Host.Outcome State Fault Refusal :=
  .next (linkFrame (frameSent .peekClear frame) frame s)

/-- PING (R160, R163). -/
def execPing (frame : FrameBits) (s : State) : Host.Outcome State Fault Refusal :=
  .next (linkFrame (frameSent .ping frame) frame s)

end Sys2Proof.Machine
end

