-- ==== Sys2Proof/Machine/Orders.lean ====
section
/-! DEFINITION. The order commands (chapter 2): a write of an order code to ORDER. A queued order is offered to the Order
Queue (R21, R22) and departs when the start conditions hold (R27); what it does then is `beginOrder` and the events that
follow. -/

namespace Sys2Proof.Machine

/-- MARK (R21, R22; carried out under R32). -/
def execMark (s : State) : Host.Outcome State Fault Refusal :=
  .next (writeOrder 0x01 s)

/-- CLEAR_MAP (R21, R22; carried out under R32). -/
def execClearMap (s : State) : Host.Outcome State Fault Refusal :=
  .next (writeOrder 0x02 s)

/-- LOAD (R21, R22; carried out under R101). -/
def execLoad (s : State) : Host.Outcome State Fault Refusal :=
  .next (writeOrder 0x10 s)

/-- UNLOAD (R21, R22; carried out under R102). -/
def execUnload (s : State) : Host.Outcome State Fault Refusal :=
  .next (writeOrder 0x11 s)

/-- REWIND (R21, R22; carried out under R103). -/
def execRewind (s : State) : Host.Outcome State Fault Refusal :=
  .next (writeOrder 0x12 s)

/-- LOCATE (R21, R22; carried out under R105, R106). -/
def execLocate (s : State) : Host.Outcome State Fault Refusal :=
  .next (writeOrder 0x13 s)

/-- MOVE_RAW (R21, R22; carried out under R104). -/
def execMoveRaw (s : State) : Host.Outcome State Fault Refusal :=
  .next (writeOrder 0x14 s)

/-- SPACE_BLOCKS (R21, R22; carried out under R107 to R110). -/
def execSpaceBlocks (s : State) : Host.Outcome State Fault Refusal :=
  .next (writeOrder 0x18 s)

/-- SPACE_FENCES (R21, R22; carried out under R107, R109, R111). -/
def execSpaceFences (s : State) : Host.Outcome State Fault Refusal :=
  .next (writeOrder 0x19 s)

/-- SEEK_END (R21, R22; carried out under R112). -/
def execSeekEnd (s : State) : Host.Outcome State Fault Refusal :=
  .next (writeOrder 0x1A s)

/-- READ_BLOCKS (R21, R22; carried out under R123 to R128, R130). -/
def execReadBlocks (s : State) : Host.Outcome State Fault Refusal :=
  .next (writeOrder 0x20 s)

/-- VERIFY_BLOCKS (R21, R22; carried out under R129). -/
def execVerifyBlocks (s : State) : Host.Outcome State Fault Refusal :=
  .next (writeOrder 0x21 s)

/-- WRITE_BLOCKS (R21, R22; carried out under R131 to R137). -/
def execWriteBlocks (s : State) : Host.Outcome State Fault Refusal :=
  .next (writeOrder 0x28 s)

/-- WRITE_FENCES (R21, R22; carried out under R138). -/
def execWriteFences (s : State) : Host.Outcome State Fault Refusal :=
  .next (writeOrder 0x29 s)

/-- ERASE_REMAINDER (R21, R22; carried out under R139). -/
def execEraseRemainder (s : State) : Host.Outcome State Fault Refusal :=
  .next (writeOrder 0x2A s)

/-- UNKNOWN_CODE (R21): queued like a known order; it fails check 1 when it departs (R29). A value that is an immediate
order's acts as that order, for the value alone classifies. -/
def execUnknownCode (code : Byte) (s : State) : Host.Outcome State Fault Refusal :=
  .next (csWrite (orderByte code) s)

/-- HALT (R38). -/
def execHalt (s : State) : Host.Outcome State Fault Refusal :=
  .next (csWrite haltOrder s)

/-- EMERGENCY_STOP (R39). -/
def execEmergencyStop (s : State) : Host.Outcome State Fault Refusal :=
  .next (csWrite emergencyStop s)

/-- DEVICE_RESET (R40, R181). -/
def execDeviceReset (s : State) : Host.Outcome State Fault Refusal :=
  .next (csWrite deviceReset s)

/-- ORDER_DEPARTURE (R27, R28): the head departs where the start conditions hold. -/
def execOrderDeparture (s : State) : Host.Outcome State Fault Refusal :=
  if headReady s then .next (settle (depart s)) else .next s

end Sys2Proof.Machine
end

