-- ==== Sys2Proof/Machine/PowerRows.lean ====
section
/-! DEFINITION. The commands of the Power Manager and the resets (chapter 10). -/

namespace Sys2Proof.Machine

/-- SLP/ at a debounced level. -/
def setSlp (high : Bool) (s : State) : State := { s with inputs := { s.inputs with slp := .sampled high } }

/-- STANDBY (R173): the standby timer has reached STANDBY DELAY. -/
def execStandby (s : State) : Host.Outcome State Fault Refusal :=
  if standbyCondition s then .next (enterStandby s) else .next s

/-- SLEEP_DEADLINE (R175): the deadline timer has reached SLEEP DEADLINE in SLEEP PENDING. -/
def execSleepDeadline (s : State) : Host.Outcome State Fault Refusal :=
  if s.power.state = .sleepPending then .next (forcedSleep s) else .next s

/-- FORCED_ENTRY (R176): the debounced SLP/ becomes low. -/
def execForcedEntry (s : State) : Host.Outcome State Fault Refusal :=
  .next (followSlp (setSlp false s))

/-- WAKE (R178): the debounced SLP/ becomes high (log 12). -/
def execWake (s : State) : Host.Outcome State Fault Refusal :=
  .next (followSlp (setSlp true s))

/-- HOST_PORT_ACTIVATION (R5): the 2 ms after a wake have passed. -/
def execHostPortActivation (s : State) : Host.Outcome State Fault Refusal :=
  .next { s with power := { s.power with portWait := 0 } }

/-- POWER_ON (R179). -/
def execPowerOn (pins : Pins) (s : State) : Host.Outcome State Fault Refusal :=
  .next (powerOnReset pins s)

/-- RST_ASSERTION (R180). RST/ already low stays low. -/
def execRstAssertion (s : State) : Host.Outcome State Fault Refusal :=
  if s.inputs.rstLow then .next s else .next (assertRst s)

/-- RST_RELEASE (R180). RST/ already high stays high. -/
def execRstRelease (s : State) : Host.Outcome State Fault Refusal :=
  if s.inputs.rstLow then .next (releaseRst s) else .next s

/-- DEFERRED_ENTRY (R174). -/
def execDeferredEntry (s : State) : Host.Outcome State Fault Refusal :=
  if deferredDue s then .next (enterSleep s) else .next s

end Sys2Proof.Machine
end

