-- ==== Sys2Proof/Machine/TapeRows.lean ====
section
/-! DEFINITION. The commands of the Tape Framer and of the orders on tape (chapters 4, 6 and 7). -/

namespace Sys2Proof.Machine

/-- R65, R98: whether a capture's result is good: the transport was CRUISING forward at STREAM RATE from the first tick of
the header field to the end of the trailer, all bytes came, and the check agrees. A marker or limit met on the very step
that ends the trailer has begun its stop by then: the spec does not say whether the field still passed at rate, and the
model gives a bad result (DESIGN CHOICE, log 19). -/
def captureGood (k : Capture) (data : List Byte) (trailer : BitVec 32) (s : State) : Bool :=
  let l := dataLength k.lengthCode
  atStreamRate s.motion (profile s) &&
    decide (Config.headerTicks + Config.trailerTicks + l / 8 ≤ s.motion.steady) &&
    decide (data.length = l) && dataCheck data == trailer

/-- R65: the data CRC engine has run over the bytes. -/
def loadDataCrc (data : List Byte) (s : State) : State :=
  { s with framer := { s.framer with dataCrc := dataCrcReg data } }

/-- R65, R124: a capture result. -/
def captureEnds (k : Capture) (data : List Byte) (trailer : BitVec 32) (s : State) : State :=
  limitsAfterResult (onCapture (captureGood k data trailer s) data (loadDataCrc data s))

/-- R106, R109, R123: the gap count of a scan under way has reached GAP LIMIT. -/
def gapReached (s : State) : State :=
  match s.seq.active with
  | none => s
  | some a =>
    if !s.motion.moving then s
    else
      match a.phase with
      | .scan => settle (blankMet s)
      | .scanBack => settle (blankBack s)
      | _ => s

/-- R134: a VFYSTB strobe: the verdict if one is awaited, nothing otherwise. -/
def strobeVerdict (good : Bool) (s : State) : State :=
  match s.framer.writer with
  | .verdict _ => settle (onVerdict good s)
  | _ => s

/-- R134: the verdict window closes without a strobe. -/
def windowCloses (s : State) : State :=
  match s.framer.writer with
  | .verdict _ => settle (onVerdict false s)
  | _ => s

/-- R137: the trailer of the END being recorded ends. -/
def endMarkEnds (s : State) : State :=
  match s.framer.writer with
  | .recording r => if r.kind = .endMark then settle (endComplete r s) else s
  | _ => s

/-- GAP_LIMIT_REACHED (R106, R107, R109, R123). -/
def execGapLimitReached (s : State) : Host.Outcome State Fault Refusal :=
  .next (gapReached s)

/-- HEADER_EVENT (R63, R64, R66, R98): the event of a field that ended with the last step. One that comes with the step is
applied in it, before an ending of that step (R53); one that comes as this command finds all that the step brought, an
ending included (DESIGN CHOICE, log 18). -/
def execHeaderEvent (bits : BitVec 64) (s : State) : Host.Outcome State Fault Refusal :=
  match fieldEnds s with
  | none => .next s
  | some place => .next (settle (fieldRead place bits s))

/-- CAPTURE_RESULT (R65, R124, R125): with no capture armed there is no result. -/
def execCaptureResult (data : List Byte) (trailer : BitVec 32) (s : State) : Host.Outcome State Fault Refusal :=
  match s.framer.capture with
  | none => .next s
  | some k => .next (settle (captureEnds k data trailer s))

/-- VERIFY_VERDICT (R134, R135). -/
def execVerifyVerdict (good : Bool) (s : State) : Host.Outcome State Fault Refusal :=
  .next (strobeVerdict good s)

/-- VERDICT_WINDOW_EXPIRY (R134, R135). -/
def execVerdictWindowExpiry (s : State) : Host.Outcome State Fault Refusal :=
  .next (windowCloses s)

/-- END_MARK_COMPLETE (R136, R137, R139). -/
def execEndMarkComplete (s : State) : Host.Outcome State Fault Refusal :=
  .next (endMarkEnds s)

/-- REPOSITION_RESUME (R127). -/
def execRepositionResume (s : State) : Host.Outcome State Fault Refusal :=
  if resumeDue s then .next (settle (beginRun s)) else .next s

/-- WRITE_WAIT_END (R131). -/
def execWriteWaitEnd (s : State) : Host.Outcome State Fault Refusal :=
  if writeWaitDue s then .next (settle (beginRun s)) else .next s

end Sys2Proof.Machine
end

