-- ==== Sys2Proof/Machine/Dispatch.lean ====
section
/-! DEFINITION. The meaning of every command, one arm per constructor of Instr. -/

namespace Sys2Proof.Machine

def exec (i : Instr) (s : State) : Host.Outcome State Fault Refusal :=
  match i with
  | .dataRead via => Sys2Proof.Machine.execDataRead via s
  | .dataWrite via value => Sys2Proof.Machine.execDataWrite via value s
  | .strobeConflict cs dack addr => Sys2Proof.Machine.execStrobeConflict cs dack addr s
  | .csDackConflict access => Sys2Proof.Machine.execCsDackConflict access s
  | .param value => Sys2Proof.Machine.execParam value s
  | .reportRead => Sys2Proof.Machine.execReportRead s
  | .acknowledge => Sys2Proof.Machine.execAcknowledge s
  | .reportRewind => Sys2Proof.Machine.execReportRewind s
  | .interruptEnable value => Sys2Proof.Machine.execInterruptEnable value s
  | .flagClear value => Sys2Proof.Machine.execFlagClear value s
  | .registerWrite addr value => Sys2Proof.Machine.execRegisterWrite addr value s
  | .setupDataRead => Sys2Proof.Machine.execSetupDataRead s
  | .setupDataWrite value => Sys2Proof.Machine.execSetupDataWrite value s
  | .faultClear value => Sys2Proof.Machine.execFaultClear value s
  | .mapEntryCommit value => Sys2Proof.Machine.execMapEntryCommit value s
  | .mark => Sys2Proof.Machine.execMark s
  | .clearMap => Sys2Proof.Machine.execClearMap s
  | .load => Sys2Proof.Machine.execLoad s
  | .unload => Sys2Proof.Machine.execUnload s
  | .rewind => Sys2Proof.Machine.execRewind s
  | .locate => Sys2Proof.Machine.execLocate s
  | .moveRaw => Sys2Proof.Machine.execMoveRaw s
  | .spaceBlocks => Sys2Proof.Machine.execSpaceBlocks s
  | .spaceFences => Sys2Proof.Machine.execSpaceFences s
  | .seekEnd => Sys2Proof.Machine.execSeekEnd s
  | .readBlocks => Sys2Proof.Machine.execReadBlocks s
  | .verifyBlocks => Sys2Proof.Machine.execVerifyBlocks s
  | .writeBlocks => Sys2Proof.Machine.execWriteBlocks s
  | .writeFences => Sys2Proof.Machine.execWriteFences s
  | .eraseRemainder => Sys2Proof.Machine.execEraseRemainder s
  | .unknownCode code => Sys2Proof.Machine.execUnknownCode code s
  | .halt => Sys2Proof.Machine.execHalt s
  | .emergencyStop => Sys2Proof.Machine.execEmergencyStop s
  | .deviceReset => Sys2Proof.Machine.execDeviceReset s
  | .orderDeparture => Sys2Proof.Machine.execOrderDeparture s
  | .capstanStep input header => Sys2Proof.Machine.execCapstanStep input header s
  | .dwellExpiry => Sys2Proof.Machine.execDwellExpiry s
  | .settleDelayExpiry => Sys2Proof.Machine.execSettleDelayExpiry s
  | .tachPulse => Sys2Proof.Machine.execTachPulse s
  | .stall => Sys2Proof.Machine.execStall s
  | .seekExhausted => Sys2Proof.Machine.execSeekExhausted s
  | .gapLimitReached => Sys2Proof.Machine.execGapLimitReached s
  | .headerEvent bits => Sys2Proof.Machine.execHeaderEvent bits s
  | .captureResult data trailer => Sys2Proof.Machine.execCaptureResult data trailer s
  | .verifyVerdict good => Sys2Proof.Machine.execVerifyVerdict good s
  | .verdictWindowExpiry => Sys2Proof.Machine.execVerdictWindowExpiry s
  | .endMarkComplete => Sys2Proof.Machine.execEndMarkComplete s
  | .repositionResume => Sys2Proof.Machine.execRepositionResume s
  | .writeWaitEnd => Sys2Proof.Machine.execWriteWaitEnd s
  | .cartridgeInserted bots eots => Sys2Proof.Machine.execCartridgeInserted bots eots s
  | .cartridgeRemoved => Sys2Proof.Machine.execCartridgeRemoved s
  | .healthInputChange input high => Sys2Proof.Machine.execHealthInputChange input high s
  | .peek frame => Sys2Proof.Machine.execPeek frame s
  | .poke frame => Sys2Proof.Machine.execPoke frame s
  | .peekClear frame => Sys2Proof.Machine.execPeekClear frame s
  | .ping frame => Sys2Proof.Machine.execPing frame s
  | .standby => Sys2Proof.Machine.execStandby s
  | .sleepDeadline => Sys2Proof.Machine.execSleepDeadline s
  | .forcedEntry => Sys2Proof.Machine.execForcedEntry s
  | .wake => Sys2Proof.Machine.execWake s
  | .hostPortActivation => Sys2Proof.Machine.execHostPortActivation s
  | .powerOn pins => Sys2Proof.Machine.execPowerOn pins s
  | .rstAssertion => Sys2Proof.Machine.execRstAssertion s
  | .rstRelease => Sys2Proof.Machine.execRstRelease s
  | .deferredEntry => Sys2Proof.Machine.execDeferredEntry s

end Sys2Proof.Machine
end

