-- ==== Sys2Proof/Safety.lean ====
section
/-! DEFINITION. What counts as a sound state, and the conditions on a state that statements use. -/

namespace Sys2Proof.Machine

/-! ### Sound states -/

/-- R20, R22: the order side within its places. -/
def OrdersFit (q : Sequencer) : Prop :=
  q.queue.length ≤ Config.queuePlaces ∧ q.staging.length ≤ Config.stagingPlaces

/-- R47, R49: the Report Queue within its places, the read index within the record or just past it. -/
def ReportsFit (q : Reports) : Prop := q.stored.length ≤ Config.reportPlaces ∧ q.readIndex ≤ 10

/-- R113: two map entries in tick order, the lower partition first at one tick; within a partition the block numbers
rise with the ticks. -/
def MapBefore (d e : MapEntry) : Prop :=
  (d.origin.toInt < e.origin.toInt ∨ (d.origin.toInt = e.origin.toInt ∧ d.part.toNat < e.part.toNat)) ∧
    (d.part = e.part → d.number.toNat < e.number.toNat)

/-- R113: the Locator Map within its entries, in tick order, every entry used at a moment of its own. -/
def MapSound (p : Place) : Prop :=
  p.map.length ≤ Config.mapPlaces ∧ p.map.Pairwise MapBefore ∧
    p.map.Pairwise (fun d e => d.stamp ≠ e.stamp) ∧ ∀ d ∈ p.map, d.stamp < p.mapClock

/-- R97: a KNOWN position requires the reference to be VALID. -/
def Anchored (s : State) : Prop := s.place.position.isSome = true → s.motion.refValid = true

/-- R147, R148: a masked fault is not present, and a present fault is recorded. -/
def FaultsRecorded (h : Health) : Prop := h.present &&& h.mask = 0#6 ∧ h.present &&& ~~~h.recorded = 0#6

/-- R149, R151: the controller is INHIBITED exactly while a motion fault is present. -/
def InhibitHolds (s : State) : Prop := s.motion.state = .inhibited ↔ s.health.motionFault = true

/-- R84, R85: an INHIBITED controller serves no request and waits for nothing. -/
def Still (m : Motion) : Prop := m.state = .inhibited → m.request = none ∧ m.settling = false

/-- R61: the write gate is on only while the writer works. -/
def GateUsed (f : Framer) : Prop := f.gate = true → f.writer ≠ .idle

/-- R184, R185: every writable item lies in its range. Items whose range is every value of their bits are left out. -/
def SetupInRange (c : Setup) : Prop :=
  (4 ≤ c.clockRate.toNat ∧ c.clockRate.toNat ≤ 25) ∧ c.dataPath.toNat ≤ 1 ∧
    (1 ≤ c.startRate.toNat ∧ c.startRate.toNat ≤ 63) ∧ (1 ≤ c.streamRate.toNat ∧ c.streamRate.toNat ≤ 63) ∧
    (1 ≤ c.searchRate.toNat ∧ c.searchRate.toNat ≤ 63) ∧ 1 ≤ c.accel.toNat ∧ 1 ≤ c.decel.toNat ∧
    8 ≤ c.stallWindow.toNat ∧ 16 ≤ c.approachMargin.toNat ∧ 64 ≤ c.gapLimit.toNat ∧
    c.earlyWarning.toNat ≤ 1000000 ∧ (10000 ≤ c.maxTape.toNat ∧ c.maxTape.toNat ≤ 8000000) ∧
    c.readRetry.toNat ≤ 7 ∧ c.rewriteLimit.toNat ≤ 7 ∧
    (1 ≤ c.repositionLimit.toNat ∧ c.repositionLimit.toNat ≤ 15) ∧ 1 ≤ c.landmarkSpacing.toNat ∧
    1 ≤ c.sleepDeadline.toNat ∧ c.mapSelect.toNat ≤ 23

/-- A sound state. -/
structure Sound (s : State) : Prop where
  orders : OrdersFit s.seq
  reports : ReportsFit s.reports
  map : MapSound s.place
  anchored : Anchored s
  faults : FaultsRecorded s.health
  gate : GateUsed s.framer
  setup : SetupInRange s.setup
  still : Still s.motion
  inhibit : InhibitHolds s

/-! ### Conditions that statements use -/

/-- Log 6: nothing is due inside a command: no event waits, SLEEP PENDING does not hold, and no order is waiting to depart
or to go on from a wait at rest. -/
def Steady (s : State) : Prop :=
  s.events = [] ∧ s.power.state ≠ .sleepPending ∧
    match s.seq.active with
    | none => s.seq.queue = []
    | some a => a.phase ≠ .waitBank ∧ a.phase ≠ .repWait

/-- R12, R13: a Data Port access by this path reaches the port. -/
def AccessOpen (via : BusPath) (s : State) : Prop := portActive s = true ∧ (via = .dack → dmaMode s = true)

/-- No fault is present, and no unmasked condition holds (R146 to R148). -/
def Healthy (s : State) : Prop := s.health.present = 0#6 ∧ conditions s &&& ~~~s.health.mask = 0#6

/-- Every debounced level stands on its pin (R94, R145, R171), the write gate being off. -/
def Settled (x : Inputs) : Prop :=
  x.cartin = .sampled x.cartin.pin ∧ x.wprot = .sampled x.wprot.pin ∧ x.drvflt = .sampled x.drvflt.pin ∧
    (x.wrflt.last = true ∧ x.wrflt.level = true) ∧ x.tensok = .sampled x.tensok.pin ∧
    x.tempw = .sampled x.tempw.pin ∧ x.supok = .sampled x.supok.pin ∧ x.slp = .sampled x.slp.pin

/-- A part that is awake, idle, at rest and without faults, whose host may start an order (R27). -/
structure Ready (s : State) : Prop where
  port : portActive s = true
  awake : s.power.state = .active
  idle : s.seq.active = none ∧ s.seq.queue = [] ∧ s.seq.haltPending = false
  reports : s.reports.stored.length ≤ Config.departReports
  events : s.events = []
  rest : s.motion.state = .stopped ∧ s.motion.settling = false
  framer : s.framer.writer = .idle ∧ s.framer.gate = false ∧ s.framer.capture = none
  cartridge : s.place.cart ≠ .loading
  anchored : Anchored s
  healthy : Healthy s
  setup : SetupInRange s.setup

/-- R74: an active order in a part that is awake, with nothing due: every level stands, no fault is to be judged, and the
order is in no wait for a bank or at a reposition's end. -/
structure Waiting (s : State) (a : Active) : Prop where
  active : s.seq.active = some a
  events : s.events = []
  awake : s.power.state ≠ .sleep ∧ s.inputs.rstLow = false
  phase : a.phase ≠ .waitBank ∧ a.phase ≠ .repWait
  levels : Settled s.inputs ∧ s.framer.gate = false
  judged : presentFor s.health (conditions s) = s.health.present

/-- R89, R90: nothing stands in the way of a move to a tick: no marker asserted, the tick within the travel limits, and
not the one that the head stands at. -/
def ClearWay (s : State) (t : Int) : Prop :=
  s.inputs.bots = false ∧ s.inputs.eots = false ∧ 0 ≤ t ∧ t ≤ s.setup.maxTape.toNat ∧ t ≠ s.motion.pos

/-- An order under way: the transport moves above START RATE, not yet toward rest; no cause has arisen for the order and
no stop waits for it. -/
structure Underway (s : State) (a : Active) : Prop where
  active : s.seq.active = some a
  events : s.events = []
  awake : s.power.state ≠ .sleepPending
  moving : s.motion.moving = true
  above : a.snap.startRate.toNat < s.motion.rate
  free : s.motion.toRest = false
  anchored : Anchored s
  cause : a.cause = none
  noStop : stopWanted s a = false

/-- R81: the controller as an unplanned controlled stop of its own begins above START RATE. -/
def Motion.braked (m : Motion) : Motion :=
  { m with
    state := .decelerating, decel := .unplanned, ramp := 0, steady := 0, waiting := none
    request := match m.request with
      | some (.moveTo _ r) => some (.run m.dir r)
      | q => q }

/-- R81, R83: the controller as a requested stop begins above START RATE: the overshoot counts from the request. -/
def Motion.halting (m : Motion) : Motion := { m.braked with overshoot := 0 }

/-- R74: the controller after some steps under one profile and one pair of marker levels. -/
def stepsOf (e : CtlEnv) : Nat → Motion → Motion
  | 0, m => m
  | n + 1, m => stepsOf e n (stepOnce e m).motion

/-- R21, R25: the code that an order command writes to ORDER. -/
def orderCode : Instr → Option Byte
  | .mark => some 0x01
  | .clearMap => some 0x02
  | .load => some 0x10
  | .unload => some 0x11
  | .rewind => some 0x12
  | .locate => some 0x13
  | .moveRaw => some 0x14
  | .spaceBlocks => some 0x18
  | .spaceFences => some 0x19
  | .seekEnd => some 0x1A
  | .readBlocks => some 0x20
  | .verifyBlocks => some 0x21
  | .writeBlocks => some 0x28
  | .writeFences => some 0x29
  | .eraseRemainder => some 0x2A
  | .unknownCode c => some c
  | .halt => some 0xE1
  | .emergencyStop => some 0xE2
  | .deviceReset => some 0xEA
  | _ => none

/-- R21: the code of a queued order: every value but the three of the immediate orders. -/
def queuedCode (i : Instr) : Option Byte := (orderCode i).filter fun c => c != 0xE1 && c != 0xE2 && c != 0xEA

/-- R5: the commands that a CS/ read makes. -/
def readsPort : Instr → Bool
  | .dataRead .cs => true
  | .csDackConflict (.read _) => true
  | .reportRead => true
  | .setupDataRead => true
  | _ => false

/-- R5: the commands that a CS/ write or a DACK/ strobe makes. -/
def writesPort : Instr → Bool
  | .dataRead .dack => true
  | .dataWrite _ _ => true
  | .csDackConflict (.write _ _) => true
  | .param _ => true
  | .acknowledge => true
  | .reportRewind => true
  | .interruptEnable _ => true
  | .flagClear _ => true
  | .registerWrite _ _ => true
  | .setupDataWrite _ => true
  | .faultClear _ => true
  | .mapEntryCommit _ => true
  | i => (orderCode i).isSome

/-- A host access that writes none of the three immediate orders. -/
def plainAccess : HostAccess → Bool
  | .write 1 code => code != 0xE1 && code != 0xE2 && code != 0xEA
  | _ => true

/-- A host write at the instant of another command. -/
def writesWith : Option HostAccess → Bool
  | some (.write _ _) => true
  | _ => false

/-- The turn of a host access beside any event of its instant: with a reaction of the part to the event, the turn of R22, R28,
R34, R46, R48, R53, R152, R182 and R186; otherwise before a change of WPROT, which a departure reads (R95), and after
a change of another pin or level. -/
def instantTurn (b : Beside) (access : HostAccess) (s : State) : Turn :=
  if reacts b s then accessTurn b access s else if changesTab b then .before else .after

/-- What a host access adds to a row that carries one of its instant, `b` being the row's event (log 3): an access whose turn
is before the event acts on the part as it was, one whose turn is after it on what the event has left, and one between
acts after the event's effects and before the rest or the ending that they bring. The immediate orders are left out. -/
def AccessAtInstant (row : Option HostAccess → Instr) (b : Beside) (s : State) : Prop :=
  (reacts b s = true → exec (row none) s = .next (eventAround b id s)) ∧
  ∀ access t, plainAccess access = true → exec (row none) s = .next t →
    exec (row (some access)) s =
      match instantTurn b access s with
      | .before => exec (row none) (hostAccess access s)
      | .between => .next (eventAround b (accessBeside access) s)
      | .after => .next (hostAccess access t)

/-- The commands that may change a setup item: writes of the register window, a power-on reset, the assertion of RST/
(R16, R179, R180). -/
def changesSetup : Instr → Bool
  | .csDackConflict (.write _ _) => true
  | .registerWrite _ _ => true
  | .setupDataWrite _ => true
  | .faultClear _ => true
  | .mapEntryCommit _ => true
  | .capstanStep input _ => writesWith input.host
  | .healthInputChange input _ => writesWith input.host
  | .peek f => writesWith f.host
  | .poke f => writesWith f.host
  | .peekClear f => writesWith f.host
  | .ping f => writesWith f.host
  | .powerOn _ => true
  | .rstAssertion => true
  | _ => false

/-- A link command that may judge bits of an earlier command too: not a whole frame, or one before which a frame was still
in progress (log 14). -/
def joinsFrame (f : FrameBits) (s : State) : Bool := f.part != .whole || s.link.frame.selected

/-- The commands that may change a supervisor register: the link's writes and a power-on reset (R148, R155, R158, R164,
R166). -/
def changesSupervision (s : State) : Instr → Bool
  | .poke _ => true
  | .peekClear _ => true
  | .peek f => joinsFrame f s
  | .ping f => joinsFrame f s
  | .powerOn _ => true
  | _ => false

/-- The row of a link operation. -/
def linkRow (op : LinkOp) (f : FrameBits) : Instr :=
  match op with
  | .peek => .peek f
  | .poke => .poke f
  | .peekClear => .peekClear f
  | .ping => .ping f

/-- A whole frame alone: no frame in progress before it, and nothing else at the instant of its deselect. -/
def Alone (f : FrameBits) (s : State) : Prop :=
  f.part = .whole ∧ f.host = none ∧ f.beside = .nothing ∧ s.link.frame.selected = false

/-- R19, R41: a command that resets the order side: a power-on reset, a DEVICE RESET, the assertion of RST/, a wake. -/
def ResetBy (i : Instr) (s : State) : Prop :=
  (∃ pins, i = .powerOn pins) ∨ (i = .deviceReset ∧ portActive s = true) ∨
    (i = .rstAssertion ∧ s.inputs.rstLow = false) ∨
    (i = .wake ∧ s.inputs.rstLow = false ∧ s.power.state = .sleep ∧ s.link.sleepReq = false)

/-- R180: while RST/ is held low the order side, the banks, the Framer and the interrupt enables stay as the assertion left
them, the part stays ACTIVE, and the transport is at rest with nothing asked of it. -/
def HeldInReset (s : State) : Prop :=
  s.inputs.rstLow = true →
    s.seq = .afterReset ∧ s.banks = .afterReset ∧ s.host.intEnable = 0 ∧ s.power.state = .active ∧ s.events = [] ∧
      (s.framer.writer = .idle ∧ s.framer.gate = false ∧ s.framer.capture = none ∧ s.framer.field = none) ∧
      (s.motion.state = .stopped ∨ s.motion.state = .inhibited) ∧ s.motion.request = none ∧ s.motion.settling = false

/-- R54, R55, R59: the command at whose end a reset's report stands, and the report's cause. -/
def resetCause (s : State) : Instr → Option Cause
  | .powerOn _ => some .powerOn
  | .deviceReset => if portActive s then some .deviceReset else none
  | .rstRelease => if s.inputs.rstLow then some .pinReset else none
  | .wake => if s.inputs.rstLow = false ∧ s.power.state = .sleep ∧ s.link.sleepReq = false then some .wake else none
  | _ => none

/-- R37: the Residual of an order that a start check ends with this cause. -/
def startResidual (code : Byte) (params : List Byte) (c : Cause) : Nat :=
  if c = .paramError ∨ c = .illegalOrder then 0
  else
    match orderKind code with
    | some .readBlocks => paramCount params
    | some .verifyBlocks => paramCount params
    | some .writeBlocks => paramCount params
    | some .writeFences => paramCount params
    | some .spaceBlocks => (paramSpace params).natAbs
    | some .spaceFences => (paramSpace params).natAbs
    | some .moveRaw => min 65535 (paramTicks params).natAbs
    | _ => 0

/-- R22, R28: the order side right after a queued order has been accepted into an idle part and has departed. -/
def departedSeq (code : Byte) (a : Active) (s : State) : Sequencer :=
  { s.seq with staging := [], queue := [], active := some { a with entry := newEntry code s }, tag := s.seq.tag + 1 }

/-- R22, R33: the order side right after a queued order was accepted into an idle part and has ended in the same step. -/
def endedSeq (s : State) : Sequencer :=
  { s.seq with staging := [], queue := [], active := none, tag := s.seq.tag + 1, haltPending := false }

/-- R99, R107, R123, R131: the slot that an order starting from a KNOWN position approaches. -/
def approachSlot (k : OrderKind) (a : Active) (p : Position) : Int := if k.isWrite then appendSlot a p else p.slot

/-- R99, R107, R123, R131: the order as it begins its approach from the KNOWN position `p`. -/
def approaching (k : OrderKind) (a : Active) (p : Position) : Active :=
  match k with
  | .spaceBlocks => { a with phase := .approach, stage := .scan, scan := scanAt p (p.next.toNat + paramSpace a.entry.params) }
  | .spaceFences => { a with phase := .approach, stage := .scan, scan := scanAt p (p.next.toNat + paramSpace a.entry.params) }
  | .seekEnd => { a with phase := .approach, stage := .scan, scan := scanAt p 0 }
  | .readBlocks => { a with phase := .approach, stage := .travel }
  | .verifyBlocks => { a with phase := .approach, stage := .travel }
  | _ => { a with phase := .approach, stage := .travel, stream := { a.stream with slot := appendSlot a p } }

/-- R107, R109, R112, R123, R131: the orders that begin with an approach: forward counts, and no EOD ahead of them. -/
def approaches (k : OrderKind) (params : List Byte) (p : Position) : Prop :=
  match k with
  | .spaceBlocks => 0 < paramSpace params ∧ p.eod = false
  | .spaceFences => 0 < paramSpace params ∧ p.eod = false
  | .seekEnd => p.eod = false
  | .readBlocks => p.eod = false
  | .verifyBlocks => p.eod = false
  | .writeBlocks => True
  | .writeFences => True
  | .eraseRemainder => True
  | _ => False

/-- R107, R112, R123: the cause with which an order ends at once at a position with EOD set. -/
def eodCause (k : OrderKind) (params : List Byte) : Option Cause :=
  match k with
  | .spaceBlocks => if 0 < paramSpace params then some .endOfData else none
  | .spaceFences => if 0 < paramSpace params then some .endOfData else none
  | .seekEnd => some .success
  | .readBlocks => some .endOfData
  | .verifyBlocks => some .endOfData
  | _ => none

/-- R61 to R63: the 64 bits of a block's header field as they are recorded: the content with its check, most significant
bit first. -/
def recordedBits (r : Recording) : BitVec 64 :=
  let c := recordedContent r
  c.b0 ++ c.b1 ++ c.b2 ++ c.b3 ++ c.b4 ++ c.b5 ++ headerCheck c

/-- R63: the order in which recorded bits pass the head: in reverse the last comes first. -/
def passing (dir : Dir) (bits : BitVec 64) : BitVec 64 :=
  match dir with
  | .forward => bits
  | .reverse => bits.reverse

end Sys2Proof.Machine
end

