-- ==== Sys2Proof/Certificates/Slice0/Obligations.lean ====
section
/-! DEFINITION. The statements about the part, for the provers. Each docstring names the rules it rests on; a clause that
rests on a choice of the model names the log entry. -/

section

open Sys2Proof Sys2Proof.Machine

/-! ### The machine -/

/-- A step takes the command at the front of the queue and carries it out on the state with the queue's rest. -/
def Obligations.StepRunsFront : Prop :=
  ∀ (c : Instr) (rest : List Instr) (s : State), s.pending = c :: rest → step s = exec c { s with pending := rest }

/-- On an empty queue one millisecond passes (log 4). Every input is sampled, and its level moves when two consecutive
samples agree (R94, R145): SLP/ in every state, where the level makes the sleep entry or the wake (R171), the others while
the part is awake, where a change acts as its command does (log 10). A dwell, a settle wait, the 2 ms after a wake, the
standby timer and the deadline timer count, and act when they have run out (R5, R74, R77, R82, R173, R175). -/
def Obligations.IdleMillisecond : Prop :=
  let seen (x : Sense) (v : Bool) : Sense := { x with last := v, level := if v = x.last then v else x.level }
  let slpStands (s : State) : Prop := s.inputs.slp.pin ≠ s.inputs.slp.last ∨ s.inputs.slp.pin = s.inputs.slp.level
  (∀ s : State, s.pending = [] → Ready s → Settled s.inputs →
    step s = .next { s with
      power := { s.power with
        state := if s.setup.standbyDelay.toNat ≠ 0 ∧ s.setup.standbyDelay.toNat * 100 ≤ s.power.standbyTimer + 1 then
            .standby else .active
        standbyTimer := if s.setup.standbyDelay.toNat ≠ 0 ∧
            s.power.standbyTimer + 1 < s.setup.standbyDelay.toNat * 100 then s.power.standbyTimer + 1 else 0 } }) ∧
  (∀ s : State, s.pending = [] → s.power.state = .sleep → slpStands s →
    step s = .next { s with inputs := { s.inputs with slp := seen s.inputs.slp s.inputs.slp.pin } }) ∧
  (∀ s : State, s.pending = [] → ¬ slpStands s →
    (s.inputs.slp.pin = false → s.inputs.rstLow = false → step s = exec .forcedEntry s) ∧
    (s.inputs.slp.pin = true → s.power.state = .sleep → step s = exec .wake s)) ∧
  (∀ s : State, s.pending = [] → s.power.state ≠ .sleep → s.power.state ≠ .sleepPending → slpStands s →
    ∃ t, step s = .next t ∧ t.inputs = { s.inputs with
      slp := seen s.inputs.slp s.inputs.slp.pin
      cartin := seen s.inputs.cartin s.inputs.cartin.pin
      wprot := seen s.inputs.wprot s.inputs.wprot.pin
      drvflt := seen s.inputs.drvflt s.inputs.drvflt.pin
      wrflt := seen s.inputs.wrflt (s.inputs.wrflt.pin || !s.framer.gate)
      tensok := seen s.inputs.tensok s.inputs.tensok.pin
      tempw := seen s.inputs.tempw s.inputs.tempw.pin
      supok := seen s.inputs.supok s.inputs.supok.pin }) ∧
  (∀ (i : Instr) (x : Inputs) (s u : State), s.pending = [] → Ready s → s.setup.standbyDelay = 0 → Settled x →
    (i = .cartridgeRemoved ∧ x = { s.inputs with cartin := .sampled false } ∧
        s.inputs.cartin = { pin := false, last := false, level := true }) ∨
      (i = .healthInputChange ⟨.health .drvflt, .level, none⟩ false ∧
        x = { s.inputs with drvflt := .sampled false } ∧
        s.inputs.drvflt = { pin := false, last := false, level := true }) →
    exec i s = .next u → step s = .next { u with power := { u.power with standbyTimer := 0 } }) ∧
  (∀ (a : Active) (s : State), s.pending = [] → Sound s → Waiting s a →
    ((s.motion.state = .dwell → 1 < s.motion.dwellTimer) →
      (s.motion.state ≠ .dwell → s.motion.settling = true → 1 < s.motion.settleTimer) →
      (s.power.state = .sleepPending → s.power.deadlineTimer + 1 < s.setup.sleepDeadline.toNat * 100) →
      step s = .next { s with
        motion := if s.motion.state = .dwell then { s.motion with dwellTimer := s.motion.dwellTimer - 1 }
          else if s.motion.settling then { s.motion with settleTimer := s.motion.settleTimer - 1 } else s.motion
        power := { s.power with
          portWait := s.power.portWait - 1, standbyTimer := 0
          deadlineTimer := if s.power.state = .sleepPending then s.power.deadlineTimer + 1
            else s.power.deadlineTimer } }) ∧
    (∀ u, s.power.state = .active → s.power.portWait = 0 → u.seq.active.isSome = true →
      (s.motion.state = .dwell ∧ s.motion.dwellTimer ≤ 1 ∧ exec .dwellExpiry s = .next u) ∨
        (s.motion.state = .stopped ∧ s.motion.settling = true ∧ s.motion.settleTimer ≤ 1 ∧
          exec .settleDelayExpiry s = .next u) →
      step s = .next { u with power := { u.power with standbyTimer := 0 } }) ∧
    (s.power.state = .sleepPending → s.setup.sleepDeadline.toNat * 100 ≤ s.power.deadlineTimer + 1 →
      step s = exec .sleepDeadline s))

/-- The state after reset is sound. -/
def Obligations.ResetSound : Prop := Sound State.reset

/-- Every step of a sound state leaves a sound state: the queues keep to their places (R20, R22, R49), the Locator Map its
order (R113), a KNOWN position a VALID reference (R97), present faults are unmasked and recorded (R147, R148), the setup
keeps to its ranges (R184, R185), and the controller is INHIBITED exactly under a motion fault (R149, R151). -/
def Obligations.SoundKept : Prop := ∀ s t : State, Sound s → step s = .next t → Sound t

/-- R149, R151: after any command the transport does not move while a motion fault is present. -/
def Obligations.NoMotionUnderFault : Prop :=
  ∀ (i : Instr) (s t : State), Sound s → exec i s = .next t → t.health.motionFault = true → t.motion.moving = false

/-- A command leaves the queue of commands alone, and neither it nor a millisecond leaves a motion event for a later step
(log 6). `HeldInReset` holds after every step (`HeldWhileRstLow`). -/
def Obligations.NoEventLeft : Prop :=
  (∀ (i : Instr) (s t : State), Sound s → HeldInReset s → s.events = [] → exec i s = .next t →
    t.pending = s.pending ∧ t.events = []) ∧
  ∀ s t : State, Sound s → HeldInReset s → s.events = [] → s.pending = [] → step s = .next t →
    t.pending = [] ∧ t.events = []

/-- Whole-machine rule: the setup changes only by a host write of the register window, a power-on reset or RST/ (R16, R178
to R181), and the fault mask, the supervisor controls, SLEEP REQUEST and the POWER-ON flag only by the link and a power-on
reset (R148, R155, R158, R164, R166). A millisecond of an empty queue (log 4) changes none of them. -/
def Obligations.RegistersOfTheirOwners : Prop :=
  (∀ (i : Instr) (s t : State), exec i s = .next t →
    (changesSetup i = false → t.setup = s.setup) ∧
    (changesSupervision s i = false → t.health.mask = s.health.mask ∧ t.health.control = s.health.control ∧
      t.link.sleepReq = s.link.sleepReq ∧ t.health.powerOnFlag = s.health.powerOnFlag)) ∧
  ∀ s t : State, s.pending = [] → step s = .next t →
    t.setup = s.setup ∧ t.health.mask = s.health.mask ∧ t.health.control = s.health.control ∧
      t.link.sleepReq = s.link.sleepReq ∧ t.health.powerOnFlag = s.health.powerOnFlag

/-! ### The Host Port -/

/-- R12, R119, R120: a read of DATA takes the next byte of the readable bank, which is DRAINING from its first byte and
EMPTY after its last; with no readable bank it returns 00h and sets DATA ERROR. -/
def Obligations.DataReadTakesByte : Prop :=
  ∀ (via : BusPath) (s : State), AccessOpen via s →
    (s.banks.readSide = none →
      exec (.dataRead via) s = .next { s with host := { s.host with dataOut := 0, dataError := true } }) ∧
    (∀ id, s.banks.readSide = some id →
      exec (.dataRead via) s = .next (settle { s with
        host := { s.host with dataOut := (s.banks.get id).data.getD (s.banks.get id).moved 0 }
        banks := s.banks.set id (if (s.banks.get id).length ≤ (s.banks.get id).moved + 1 then Bank.cleared
          else { s.banks.get id with state := .draining, moved := (s.banks.get id).moved + 1 }) }))

/-- R12, R118, R122: a write of DATA goes to the FILLING bank, or to an EMPTY one claimed for the fill target; otherwise it
is discarded with DATA ERROR. -/
def Obligations.DataWriteStoresByte : Prop :=
  ∀ (via : BusPath) (v : Byte) (s : State), AccessOpen via s →
    (fillTarget s = none →
      exec (.dataWrite via v) s = .next { s with host := { s.host with dataError := true } }) ∧
    (∀ e, fillTarget s = some e → s.banks.fillSide = none → s.banks.toClaim = none →
      exec (.dataWrite via v) s = .next { s with host := { s.host with dataError := true } }) ∧
    (∀ e id, fillTarget s = some e → s.banks.fillSide = some id →
      exec (.dataWrite via v) s = .next (settle { s with
        banks := s.banks.set id { s.banks.get id with
          data := (s.banks.get id).data ++ [v], moved := (s.banks.get id).moved + 1
          state := if (s.banks.get id).length ≤ (s.banks.get id).moved + 1 then .fullWrite else .filling } })) ∧
    (∀ e id, fillTarget s = some e → s.banks.fillSide = none → s.banks.toClaim = some id →
      exec (.dataWrite via v) s = .next (settle { s with
        banks := { s.banks.set id { Bank.cleared with
            state := .filling, data := [v], moved := 1, owner := e.tag
            length := dataLength (paramLength e.params), age := s.banks.nextAge } with
          lastClaim := some id, nextAge := s.banks.nextAge + 1 } }))

/-- R3, R7: RD/ and WR/ together: 00h is driven, no register changes, and DATA ERROR is set when the access was made with
DACK/ in DMA mode or with CS/ at address 0, the port being active (R5). A DACK/ strobe outside DMA mode is none (R13). -/
def Obligations.StrobeConflict : Prop :=
  ∀ (cs dack : Bool) (addr : BitVec 3) (s : State),
    exec (.strobeConflict cs dack addr) s =
      if cs = true ∨ (dack = true ∧ dmaMode s = true) then
        .next { s with host := { s.host with
          dataOut := 0
          dataError := s.host.dataError ||
            (portActive s && ((dack && dmaMode s) || (cs && decide (addr = 0)))) } }
      else .next s

/-- R14: in DMA mode an access with CS/ and DACK/ together is ignored, drives 00h if it is a read, sets DATA ERROR and
leaves DREQ. -/
def Obligations.CsDackConflictIgnored : Prop :=
  ∀ (access : HostAccess) (s : State), portActive s = true → dmaMode s = true →
    ∃ t, exec (.csDackConflict access) s = .next t ∧ dreq t = dreq s ∧
      t = { s with host := { s.host with
        dataError := true
        dataOut := match access with | .read _ => 0 | .write _ _ => s.host.dataOut } }

/-- R5: the port is inactive while RST/ is low, in SLEEP, and in the 2 ms after a wake, and in no other state. Inactive, IRQ/
is released and DREQ low; a read returns 00h and changes nothing else, and a write or a DACK/ strobe changes nothing: that a
DACK/ read strobe then leaves D7-D0 as they were is the model's choice (log 40). In PIO mode a DACK/ strobe changes nothing
either (R13). -/
def Obligations.InactivePort : Prop :=
  ∀ (i : Instr) (s : State),
    (portActive s = false ↔ s.inputs.rstLow = true ∨ s.power.state = .sleep ∨ s.power.portWait ≠ 0) ∧
    (portActive s = false → irqActive s = false ∧ dreq s = false) ∧
    (portActive s = false → readsPort i = true → exec i s = .next { s with host := { s.host with dataOut := 0 } }) ∧
    (portActive s = false → writesPort i = true → exec i s = .next s) ∧
    (dmaMode s = false → (i = .dataRead .dack ∨ ∃ v, i = .dataWrite .dack v) → exec i s = .next s)

/-- R7, R10, R20: a byte written to PARAM, to INTERRUPT ENABLE and to FLAG CLEAR. -/
def Obligations.PlainRegisters : Prop :=
  ∀ (v : Byte) (s : State), portActive s = true →
    (s.seq.staging.length < 8 →
      exec (.param v) s = .next { s with seq := { s.seq with staging := s.seq.staging ++ [v] } }) ∧
    (8 ≤ s.seq.staging.length →
      exec (.param v) s = .next { s with host := { s.host with paramOverflow := true } }) ∧
    exec (.interruptEnable v) s = .next { s with host := { s.host with intEnable := v.extractLsb' 0 2 } } ∧
    exec (.flagClear v) s = .next { s with host := { s.host with
      orderRejected := s.host.orderRejected && !v.getLsbD 0
      setupError := s.host.setupError && !v.getLsbD 1
      dataError := s.host.dataError && !v.getLsbD 2
      paramOverflow := s.host.paramOverflow && !v.getLsbD 3 } }

/-- R47, R48: a read of REPORT, an acknowledge and a rewind. After an acknowledge the start conditions are checked. -/
def Obligations.ReportAccess : Prop :=
  ∀ s : State, portActive s = true →
    (s.reports.stored = [] →
      exec .reportRead s = .next { s with host := { s.host with dataOut := 0 } } ∧
      exec .acknowledge s = .next (settle s)) ∧
    (∀ r rest, s.reports.stored = r :: rest →
      exec .reportRead s = .next { s with
        host := { s.host with dataOut := r.bytes.getD s.reports.readIndex 0 }
        reports := { s.reports with readIndex := min 10 (s.reports.readIndex + 1) } } ∧
      exec .acknowledge s = .next (settle { s with reports := { s.reports with stored := rest, readIndex := 0 } })) ∧
    exec .reportRewind s = .next { s with reports := { s.reports with readIndex := 0 } }

/-- R4, R13, R21: a write through the register window is what its address makes it, an order is known by its value alone,
and in PIO mode an access with DACK/ asserted as well is the plain access. -/
def Obligations.RegisterWindow : Prop :=
  (∀ (v : Byte) (s : State),
    exec (.registerWrite 0 v) s = exec (.dataWrite .cs v) s ∧
    exec (.registerWrite 2 v) s = exec (.param v) s ∧
    exec (.registerWrite 4 v) s = exec (.interruptEnable v) s ∧
    exec (.registerWrite 5 v) s = exec (.flagClear v) s ∧
    exec (.registerWrite 7 v) s = exec (.setupDataWrite v) s ∧
    exec (.registerWrite 3 1) s = exec .acknowledge s ∧
    exec (.registerWrite 3 2) s = exec .reportRewind s ∧
    (v ≠ 1 → v ≠ 2 → exec (.registerWrite 3 v) s = .next s) ∧
    (portActive s = true →
      exec (.registerWrite 6 v) s = .next { s with host := { s.host with setupIndex := v } })) ∧
  (∀ (i : Instr) (c : Byte) (s : State), orderCode i = some c → exec i s = exec (.registerWrite 1 c) s) ∧
  (∀ (v : Byte) (addr : BitVec 3) (s : State), portActive s = true → dmaMode s = false →
    exec (.csDackConflict (.write addr v)) s = exec (.registerWrite addr v) s ∧
    exec (.csDackConflict (.read 0)) s = exec (.dataRead .cs) s ∧
    exec (.csDackConflict (.read 3)) s = exec .reportRead s ∧
    exec (.csDackConflict (.read 7)) s = exec .setupDataRead s ∧
    exec (.csDackConflict (.read 1)) s = .next { s with host := { s.host with dataOut := orderStatus s } } ∧
    exec (.csDackConflict (.read 2)) s = .next { s with host := { s.host with dataOut := paramStatus s } } ∧
    exec (.csDackConflict (.read 4)) s = .next { s with host := { s.host with dataOut := statusByte s } } ∧
    exec (.csDackConflict (.read 5)) s = .next { s with host := { s.host with dataOut := bankStatus s } } ∧
    exec (.csDackConflict (.read 6)) s = .next { s with host := { s.host with dataOut := s.host.setupIndex } })

/-- R15, R18: a read of SETUP DATA: 00h at an unassigned index; the live byte of a single-byte item; the lowest byte of a
longer item, with its snapshot taken; a higher byte of the snapshot, or of the live value where none was taken. -/
def Obligations.SetupDataRead : Prop :=
  ∀ s : State, portActive s = true →
    (itemAt s.host.setupIndex = none →
      exec .setupDataRead s = .next { s with host := { s.host with
        setupIndex := s.host.setupIndex + 1, dataOut := 0 } }) ∧
    (∀ r, itemAt s.host.setupIndex = some r → s.host.setupIndex.toNat = r.base → r.size = 1 →
      exec .setupDataRead s = .next { s with host := { s.host with
        setupIndex := s.host.setupIndex + 1, dataOut := valueByte (itemValue s r.item) 0 } }) ∧
    (∀ r, itemAt s.host.setupIndex = some r → s.host.setupIndex.toNat = r.base → r.size ≠ 1 →
      exec .setupDataRead s = .next { s with host := { s.host with
        setupIndex := s.host.setupIndex + 1, dataOut := valueByte (itemValue s r.item) 0
        snaps := (r.index, itemValue s r.item) :: s.host.snaps.filter (fun e => e.1 != r.index) } }) ∧
    (∀ r, itemAt s.host.setupIndex = some r → r.base < s.host.setupIndex.toNat →
      exec .setupDataRead s = .next { s with host := { s.host with
        setupIndex := s.host.setupIndex + 1
        dataOut := valueByte (((s.host.snaps.find? fun e => e.1 == r.index).map Prod.snd).getD (itemValue s r.item))
          (s.host.setupIndex.toNat - r.base) } })

/-- R15 to R17: a write of SETUP DATA: refused at an unassigned or read-only index with the written index recorded; kept
in the shadow below an item's highest byte; at the highest byte of a writable item the assembled value is committed if it
lies in range and refused otherwise, and the item's marks are cleared. A commit of STANDBY DELAY or SLEEP DEADLINE is
compared with its running timer: a STANDBY DELAY of 0 stops it, a delay or deadline that it has passed already makes the
entry at once (R173, R175, R176); no other item has one. -/
def Obligations.SetupDataWrite : Prop :=
  ∀ (v : Byte) (s : State), portActive s = true →
    (itemAt s.host.setupIndex = none →
      exec (.setupDataWrite v) s = .next { s with host := { s.host with
        setupIndex := s.host.setupIndex + 1, setupError := true, lastSetupError := s.host.setupIndex } }) ∧
    (∀ r, itemAt s.host.setupIndex = some r → r.item.cls = .readOnly →
      exec (.setupDataWrite v) s = .next { s with host := { s.host with
        setupIndex := s.host.setupIndex + 1, setupError := true, lastSetupError := s.host.setupIndex } }) ∧
    (∀ r, itemAt s.host.setupIndex = some r → r.item.cls ≠ .readOnly →
      s.host.setupIndex.toNat + 1 < r.base + r.size →
      exec (.setupDataWrite v) s = .next { s with host := { s.host with
        setupIndex := s.host.setupIndex + 1
        shadow := (s.host.setupIndex, v) :: s.host.shadow.filter (fun e => e.1 != s.host.setupIndex) } }) ∧
    (∀ r, itemAt s.host.setupIndex = some r → r.item.cls = .writable →
      s.host.setupIndex.toNat + 1 = r.base + r.size →
      (r.item.accepts (assembled s r v) = false →
        exec (.setupDataWrite v) s = .next { s with host := { s.host with
          setupIndex := s.host.setupIndex + 1, setupError := true, lastSetupError := r.index
          shadow := s.host.shadow.filter (outsideItem r) } }) ∧
      (r.item.accepts (assembled s r v) = true → ∀ u : State, u = { s with
          host := { s.host with
            setupIndex := s.host.setupIndex + 1, shadow := s.host.shadow.filter (outsideItem r) }
          setup := s.setup.store r.item (assembled s r v) } →
        (r.item ≠ .standbyDelay → r.item ≠ .sleepDeadline → exec (.setupDataWrite v) s = .next u) ∧
        (r.item = .standbyDelay →
          let due := s.power.state = .active ∧ s.seq.active = none ∧ s.seq.queue = [] ∧ s.motion.state = .stopped ∧
            u.setup.standbyDelay.toNat * 100 ≤ s.power.standbyTimer
          (u.setup.standbyDelay = 0 →
            exec (.setupDataWrite v) s = .next { u with power := { s.power with standbyTimer := 0 } }) ∧
          (u.setup.standbyDelay ≠ 0 → due →
            exec (.setupDataWrite v) s = .next { u with
              power := { s.power with state := .standby, standbyTimer := 0 } }) ∧
          (u.setup.standbyDelay ≠ 0 → ¬ due → exec (.setupDataWrite v) s = .next u)) ∧
        (r.item = .sleepDeadline →
          let due := s.power.state = .sleepPending ∧ u.setup.sleepDeadline.toNat * 100 ≤ s.power.deadlineTimer
          (due → exec (.setupDataWrite v) s = .next (forcedSleep u)) ∧
          (¬ due → exec (.setupDataWrite v) s = .next u))))

/-- R16, R184, R185: a committed value reads back as it was written, and no other writable item reads otherwise. -/
def Obligations.SetupReadsBack : Prop :=
  ∀ (s : State) (r : ItemRow) (v : Nat), r ∈ itemRows → r.item.cls = .writable → r.item.accepts v = true →
    v < 256 ^ r.size →
    itemValue { s with setup := s.setup.store r.item v } r.item = v ∧
    ∀ q ∈ itemRows, q.item.cls = .writable → q.item ≠ r.item →
      itemValue { s with setup := s.setup.store r.item v } q.item = itemValue s q.item

/-- R152, R153: FAULT CLEAR by the host (log 15): 01h makes the clear action while CLEAR AUTHORITY allows it, and anything
else is a setup error at 44h. The clear action keeps the faults whose conditions hold and forgets the recorded bits of all
others; a motion inhibit that lifts makes an INHIBITED transport STOPPED (R85). -/
def Obligations.FaultClearCommand : Prop :=
  ∀ (v : Byte) (s : State), Sound s → portActive s = true →
    (v = 1 → s.health.supervisorOnly = false →
      ∃ t, exec (.faultClear v) s = .next t ∧
        t.health.present = s.health.present &&& (staticFaults ||| (latchedFaults &&& conditions s)) ∧
        t.health.recorded = s.health.recorded &&& t.health.present ∧
        t = { s with
          host := { s.host with setupIndex := 0x45, shadow := s.host.shadow.filter fun e => e.1 != 0x44 }
          health := { s.health with present := t.health.present, recorded := t.health.recorded }
          motion := { s.motion with
            state := if s.motion.state = .inhibited ∧ t.health.motionFault = false then .stopped
              else s.motion.state } }) ∧
    (v ≠ 1 ∨ s.health.supervisorOnly = true →
      exec (.faultClear v) s = .next { s with host := { s.host with
        setupIndex := 0x45, setupError := true, lastSetupError := 0x44
        shadow := s.host.shadow.filter fun e => e.1 != 0x44 } })

/-- R113, R116: the commit of a map entry (log 15): refused with a setup error at 62h while an order is active or the table
or the entry does not allow it; otherwise the entry is inserted with source HOST as the most recently used. -/
def Obligations.MapEntryCommit : Prop :=
  ∀ (v : Byte) (r : ItemRow) (s : State), Sound s → portActive s = true → itemAt 0x69 = some r →
    let u : State := { s with host := { s.host with setupIndex := 0x69 } }
    let n := assembled u r v
    let host : HostPort := { s.host with setupIndex := 0x6A, shadow := s.host.shadow.filter (outsideItem r) }
    (s.seq.active.isSome ∨ tableValid s.setup = false ∨ (s.setup.parts.get (entryPart n)).enabled = false ∨
        inRegion s.setup (entryPart n) (entryTick n) = false →
      exec (.mapEntryCommit v) s = .next { s with host := { host with setupError := true, lastSetupError := 0x62 } }) ∧
    (s.seq.active = none → tableValid s.setup = true → (s.setup.parts.get (entryPart n)).enabled = true →
      inRegion s.setup (entryPart n) (entryTick n) = true →
      ∃ t, exec (.mapEntryCommit v) s = .next t ∧ t = { s with host := host, place := t.place } ∧
        t.place = mapInsert (entryPart n) (entryNumber n) (entryTick n) .host s.place ∧
        ∃ e ∈ t.place.map, e.part = entryPart n ∧ e.number = entryNumber n ∧ e.origin.toInt = entryTick n ∧
          e.source = .host ∧ usePlace t.place.map e = 0)

/-! ### Reports -/

/-- R42: the ten bytes of a record determine it: no field is dropped or merged. -/
def Obligations.ReportBytesFaithful : Prop := ∀ r q : Report, r.bytes = q.bytes → r = q

/-- R49, R50: a push below six reports stores at the tail, the index 0 for a new head; at six it stores nothing, sets LOST
on the tail and counts to 255 at most. Either way the last-pushed record is the report's. -/
def Obligations.PushReport : Prop :=
  ∀ (q : Reports) (r : Report),
    (q.stored.length < 6 →
      q.push r = { q with
        stored := q.stored ++ [r], lastCause := r.cause, lastTag := r.tag
        readIndex := if q.stored = [] then 0 else q.readIndex }) ∧
    (∀ init x, q.stored = init ++ [x] → 6 ≤ q.stored.length →
      q.push r = { q with
        stored := init ++ [{ x with lost := true }], lastCause := r.cause, lastTag := r.tag
        overflow := if q.overflow = 255 then 255 else q.overflow + 1 })

/-! ### Orders -/

/-- R5, R21, R22: a queued order, known or not, is accepted at the tail with the next tag and the staged bytes while fewer
than four wait, and otherwise leaves only ORDER REJECTED. With an order active that needs nothing, nothing else follows;
otherwise the departure may follow at once (R27). -/
def Obligations.OrderAccepted : Prop :=
  ∀ (i : Instr) (c : Byte) (s : State), queuedCode i = some c → portActive s = true →
    let t : State := { s with
      seq := { s.seq with
        queue := s.seq.queue ++ [{ tag := s.seq.tag, code := c, params := s.seq.staging }]
        tag := s.seq.tag + 1, staging := [] }
      power := { s.power with standbyTimer := 0 } }
    (s.seq.queue.length < 4 → exec i s = .next (settle t)) ∧
    (s.seq.queue.length < 4 → Steady s → s.seq.active.isSome = true → exec i s = .next t) ∧
    (4 ≤ s.seq.queue.length → exec i s = .next { s with host := { s.host with orderRejected := true } })

/-- R28, R29, R33, R34, R36, R37: an order written to an idle part that fails a start check ends in the same step at stage
0 with the check's cause, its full Residual, and the discard of all write data. -/
def Obligations.FailedStartCheckEnds : Prop :=
  ∀ (i : Instr) (code : Byte) (c : Cause) (s : State), queuedCode i = some code → Ready s →
    startCheck s s.setup (newEntry code s) = some c →
    ((orderKind code).any OrderKind.isWrite = true → s.banks.anyRead = false) →
    let u : State := { s with
      seq := endedSeq s
      banks := { s.banks with a := s.banks.a.afterDiscard, b := s.banks.b.afterDiscard }
      power := { s.power with standbyTimer := 0 } }
    exec i s = .next { u with reports := s.reports.push { baseReport c u with
      unsolicited := false, tag := s.seq.tag, code := code
      residual := BitVec.ofNat 16 (startResidual code s.seq.staging c) } }

/-- R32: MARK and CLEAR MAP written to an idle part end in the same step with SUCCESS at stage 5; MARK changes nothing
else, CLEAR MAP empties the Locator Map. R107, R112, R123: an order that meets a known EOD at its start ends in the same
step: SEEK END with SUCCESS, a forward SPACE order, READ BLOCKS and VERIFY BLOCKS with END OF DATA at stage 0. -/
def Obligations.EndsAtDeparture : Prop :=
  (∀ s : State, Ready s → s.seq.staging = [] →
    let done : State := { s with seq := endedSeq s, power := { s.power with standbyTimer := 0 } }
    let report (code : Byte) : Report := { baseReport .success done with
      unsolicited := false, stage := .done, tag := s.seq.tag, code := code }
    exec .mark s = .next { done with reports := s.reports.push (report 0x01) } ∧
    exec .clearMap s = .next { done with
      place := { s.place with map := [] }, reports := s.reports.push (report 0x02) }) ∧
  (∀ (i : Instr) (code : Byte) (k : OrderKind) (c : Cause) (p : Position) (s : State),
    queuedCode i = some code → orderKind code = some k → Ready s → startCheck s s.setup (newEntry code s) = none →
    s.place.position = some p → p.eod = true → eodCause k s.seq.staging = some c →
    let u : State := { s with
      seq := endedSeq s, power := { s.power with standbyTimer := 0 }
      banks := if c = .success then s.banks
        else { s.banks with a := s.banks.a.afterDiscard, b := s.banks.b.afterDiscard } }
    exec i s = .next { u with reports := s.reports.push { baseReport c u with
      unsolicited := false, tag := s.seq.tag, code := code
      stage := if c = .success then .done else .startChecks
      residual := BitVec.ofNat 16 (if c = .success then 0 else startResidual code s.seq.staging c) } })

/-- R88, R101 to R103, R105: LOAD and UNLOAD, and REWIND and LOCATE under an INVALID reference, begin with a zeroing seek in
stage 1, handed to the controller at SEARCH RATE; LOAD takes the write-protect level (R95) and the cartridge is LOADING. -/
def Obligations.SeekStarts : Prop :=
  ∀ (i : Instr) (code : Byte) (k : OrderKind) (s : State), queuedCode i = some code → orderKind code = some k →
    Ready s → startCheck s s.setup (newEntry code s) = none →
    (k = .load ∨ k = .unload ∨ ((k = .rewind ∨ k = .locate) ∧ s.motion.refValid = false)) →
    let a := newActive s (newEntry code s)
    exec i s = .next { s with
      seq := departedSeq code { a with
        phase := .seek, stage := .reference
        scan := { a.scan with target := if k = .locate then (paramBlock s.seq.staging).toNat else 0 } } s
      power := { s.power with standbyTimer := 0 }
      place := { s.place with
        position := none
        cart := if k = .load then .loading else s.place.cart
        wpLatch := if k = .load then s.inputs.wprot.level else s.place.wpLatch }
      motion := (requestMove { setup := s.setup, bots := s.inputs.bots, eots := s.inputs.eots } 0 s.motion
        (.seek s.setup.searchRate.toNat)).motion }

/-- R103 to R105: REWIND, LOCATE without an anchor, and MOVE RAW under a VALID reference begin with the coarse move of stage
2 at SEARCH RATE: to START less APPROACH MARGIN, or by the count of ticks. -/
def Obligations.TravelStarts : Prop :=
  ∀ (i : Instr) (code : Byte) (k : OrderKind) (t : Int) (s : State), queuedCode i = some code →
    orderKind code = some k → Ready s → startCheck s s.setup (newEntry code s) = none →
    s.motion.refValid = true → ClearWay s t →
    let a := newActive s (newEntry code s)
    let start := partStart s.setup a.part
    (k = .rewind ∧ t = start - s.setup.approachMargin.toNat) ∨
      (k = .locate ∧ s.place.position = none ∧ s.place.map = [] ∧ t = start - s.setup.approachMargin.toNat) ∨
      (k = .moveRaw ∧ t = s.motion.pos + paramTicks s.seq.staging) →
    exec i s = .next { s with
      seq := departedSeq code { a with
        phase := .travel, stage := .travel
        scan := { a.scan with
          origin := if k = .locate then start else 0
          target := if k = .locate then (paramBlock s.seq.staging).toNat else if k = .moveRaw then t else 0 } } s
      power := { s.power with standbyTimer := 0 }
      place := { s.place with position := none }
      motion := (requestMove { setup := s.setup, bots := false, eots := false } 0 s.motion
        (.moveTo t s.setup.searchRate.toNat)).motion }

/-- R99, R107, R112, R123, R131: an order that starts from a KNOWN position before what it works on begins with the approach
to its slot: a move to the slot less APPROACH MARGIN at SEARCH RATE. A reverse SPACE order whose head stands before its slot
travels to the slot first (R109). -/
def Obligations.ApproachStarts : Prop :=
  ∀ (i : Instr) (code : Byte) (k : OrderKind) (p : Position) (s : State), queuedCode i = some code →
    orderKind code = some k → Ready s → startCheck s s.setup (newEntry code s) = none → s.place.position = some p →
    (k.isWrite = true → s.banks.anyRead = false) →
    let a := newActive s (newEntry code s)
    (approaches k s.seq.staging p → ClearWay s (approachSlot k a p - s.setup.approachMargin.toNat) →
      exec i s = .next { s with
        seq := departedSeq code (approaching k a p) s
        power := { s.power with standbyTimer := 0 }
        motion := (requestMove { setup := s.setup, bots := false, eots := false } 0 s.motion
          (.moveTo (approachSlot k a p - s.setup.approachMargin.toNat) s.setup.searchRate.toNat)).motion }) ∧
    ((k = .spaceBlocks ∨ k = .spaceFences) → paramSpace s.seq.staging < 0 → s.motion.pos < p.slot →
      ClearWay s p.slot →
      exec i s = .next { s with
        seq := departedSeq code { a with
          phase := .travel, stage := .travel, scan := scanAt p (p.next.toNat + paramSpace s.seq.staging) } s
        power := { s.power with standbyTimer := 0 }
        motion := (requestMove { setup := s.setup, bots := false, eots := false } 0 s.motion
          (.moveTo p.slot s.setup.searchRate.toNat)).motion })

/-- R27, R28: the head departs exactly when no order is active, at most four reports stand, the part is neither asleep nor
about to be, RST/ is high, and, for a write-class order, no bank holds read data; otherwise it waits. The departure moves it
into the active slot with its snapshot, makes the AUTO clears, and makes the start checks. -/
def Obligations.OrderDeparture : Prop :=
  ∀ (e : QueueEntry) (rest : List QueueEntry) (s : State), s.seq.queue = e :: rest →
    let due := s.seq.active = none ∧ s.reports.stored.length ≤ 4 ∧ s.power.state ≠ .sleepPending ∧
      s.power.state ≠ .sleep ∧ s.inputs.rstLow = false ∧
      ¬ ((orderKind e.code).any OrderKind.isWrite = true ∧ s.banks.anyRead = true)
    (¬ due → exec .orderDeparture s = .next s) ∧
    (due →
      let s1 := autoClearEntry e { s with
        seq := { s.seq with queue := rest, active := some (newActive s e) }
        power := { s.power with standbyTimer := 0 } }
      (∀ c, startCheck s1 s.setup e = some c → exec .orderDeparture s = .next (settle (finish (raise c s1)))) ∧
      (∀ k, startCheck s1 s.setup e = none → orderKind e.code = some k →
        exec .orderDeparture s = .next (settle (beginOrder k e.params s1))))

/-- R34, R38, R39, R43: HALT and EMERGENCY STOP with no order active remove every waiting order and all write data, and
push a report that tells how many were removed. -/
def Obligations.IdleStop : Prop :=
  ∀ (i : Instr) (c : Cause) (code : Byte) (s : State), portActive s = true → s.seq.active = none →
    (i = .halt ∧ c = .halted ∧ code = 0xE1) ∨ (i = .emergencyStop ∧ c = .emergencyStopped ∧ code = 0xE2) →
    let u : State := { s with
      seq := { s.seq with queue := [] }
      banks := { s.banks with a := s.banks.a.afterDiscard, b := s.banks.b.afterDiscard } }
    exec i s = .next { u with reports := s.reports.push { baseReport c u with
      unsolicited := false, code := code, discarded := BitVec.ofNat 4 s.seq.queue.length } }

/-- R38, R100, R130, R140, R156: a HALT with an order active is ignored while a stop waits already. In the coarse move of
stage 2 it takes effect at once: the cause arises in that stage, the final position is UNKNOWN, and a controlled stop
begins. So it does in the scan of a reading order that captures nothing, which keeps its running position (R130), and in a
reposition wait at rest, where the order ends in the same step. While a block is recorded, and while a capture is armed,
HALT-pending alone is set. -/
def Obligations.HaltActive : Prop :=
  ∀ (a : Active) (s : State), portActive s = true → s.seq.active = some a →
    (stopWanted s a = true → exec .halt s = .next s) ∧
    (Underway s a → a.phase = .travel → a.stage = .travel → a.isStream = false →
      exec .halt s = .next { s with
        seq := { s.seq with
          haltPending := true
          active := some { a with
            cause := some { cause := .halted, stage := .travel }, final := some none
            phase := .ending, stage := .settle } }
        motion := s.motion.halting }) ∧
    (Underway s a → a.phase = .scan → a.stage = .scan → a.isRead = true → s.framer.capture = none →
      exec .halt s = .next { s with
        seq := { s.seq with
          haltPending := true
          active := some { a with
            cause := some { cause := .halted, stage := .scan }, final := none, phase := .ending, stage := .settle } }
        motion := s.motion.halting }) ∧
    (Steady s → stopWanted s a = false → a.phase = .write ∨ (a.phase = .scan ∧ s.framer.capture.isSome = true) →
      exec .halt s = .next { s with seq := { s.seq with haltPending := true } }) ∧
    (Sound s → stopWanted s a = false → a.phase = .repWait → a.stage = .scan → a.isRead = true → a.cause = none →
      s.events = [] → s.power.state ≠ .sleepPending → s.place.cart ≠ .loading → s.framer.capture = none →
      s.motion.state = .stopped → presentFor s.health (conditions s) = s.health.present →
      ∃ r, r.cause = .halted ∧ r.stage = .scan ∧ r.tag = a.entry.tag ∧
        r.residual = BitVec.ofNat 16 (paramCount a.entry.params - a.stream.done) ∧
        exec .halt s = .next { s with
          seq := { s.seq with queue := [], active := none, haltPending := false }
          reports := s.reports.push r
          banks := { s.banks with a := s.banks.a.afterDiscard, b := s.banks.b.afterDiscard }
          motion := { s.motion with
            request := none, waiting := none, settling := false, settleTimer := 0, dwellTimer := 0, seek := .none
            overshoot := 0, lastOvershoot := 0 } })

/-- R34, R39, R52, R84, R97, R100: an EMERGENCY STOP with an order active, whatever waits for the order (a HALT that is
pending too): it ends the order in the same step with the cause that stands higher, and drops the write gate. While the
transport moves it holds it, and the reference and the position are lost. At rest, in a dwell, a settle wait or a wait
for a bank, the reference is kept, the wait is abandoned, and the position is the one that the stage gives; a streaming
order keeps its running position. -/
def Obligations.EmergencyStopActive : Prop :=
  ∀ (a : Active) (s : State), Sound s → portActive s = true → s.seq.active = some a → s.events = [] →
    s.power.state ≠ .sleepPending → presentFor s.health (conditions s) = s.health.present →
    ∃ t, exec .emergencyStop s = .next t ∧
      t.seq = { s.seq with queue := [], active := none, haltPending := false } ∧
      t.reports.lastCause = (if outranks .emergencyStopped a.cause then .emergencyStopped
        else (a.cause.map CauseAt.cause).getD .success) ∧
      t.reports.lastTag = a.entry.tag ∧
      t.framer.gate = false ∧ t.framer.writer = .idle ∧ t.framer.capture = none ∧ t.motion.tick = s.motion.tick ∧
      t.host = s.host ∧ t.setup = s.setup ∧ t.health = s.health ∧ t.link = s.link ∧ t.power = s.power ∧
      t.place.map = s.place.map ∧ (s.framer.capture = none →
        t.banks = { s.banks with a := s.banks.a.afterDiscard, b := s.banks.b.afterDiscard }) ∧
      (s.motion.moving = true →
        t.motion.state = .stopped ∧ t.motion.rate = 0 ∧ t.motion.refValid = false ∧ t.place.position = none ∧
        t.motion.lastOvershoot = BitVec.ofNat 16 s.motion.overshoot) ∧
      (s.motion.moving = false →
        t.motion = (if s.motion.state = .dwell ∨ s.motion.settling = true then { s.motion with
            state := .stopped, request := none, waiting := none, settling := false, settleTimer := 0, dwellTimer := 0
            seek := .none, overshoot := 0, lastOvershoot := 0 }
          else s.motion) ∧
        t.place.position =
          (if a.isStream then s.place.position
           else if s.motion.refValid = false then none
           else match a.stage with
             | .scan => a.scan.landmark
             | .settle => a.final.getD s.place.position
             | _ => none))

/-- R52: of all the causes that arise in one stage of an order, the highest ranked stands at the end, and of two of equal
rank the first. -/
def Obligations.CausePrecedence : Prop :=
  ∀ (causes : List Cause) (s : State) (a : Active), s.seq.active = some a → a.cause = none → causes ≠ [] →
    ∃ before c after, causes = before ++ c :: after ∧
      (∀ d ∈ before, causeRank c < causeRank d) ∧ (∀ d ∈ after, causeRank c ≤ causeRank d) ∧
      causes.foldl (fun t d => raise d t) s = { s with seq := { s.seq with
        active := some { a with cause := some { cause := c, stage := a.stage } } } }

/-! ### The Capstan Motion Controller -/

/-- R64, R66, R74, R86, R88, R92: a step of a moving transport counts one tick in its direction, or sets the counter to 0 on
the zeroing edge, and hands its events; a header field may have ended with it where the write gate was off as the step was
made (R66) and the move has made twelve steps forward, or thirteen in reverse, where the step that leaves a boundary's tick
crosses it (R64). At rest no step is issued. A host access of the same instant has its turn before the step, between its
effects and the rest it may come to, or after it (log 3). -/
def Obligations.CapstanStep : Prop :=
  ∀ (bots eots : Bool) (header : Option (BitVec 64)) (s : State),
    AccessAtInstant (fun host => .capstanStep ⟨bots, eots, host⟩ header) (.step bots eots header) s ∧
    (s.motion.moving = false → exec (.capstanStep ⟨bots, eots, none⟩ header) s = .next s) ∧
    (s.motion.moving = true →
      let e : CtlEnv := { setup := profile s, bots := bots, eots := eots }
      let o := stepOnce e s.motion
      let zeroes := s.motion.seek = .seeking ∧ s.motion.toRest = false ∧ bots = true
      let forward := s.motion.dir = .forward
      let place : FieldPlace := { dir := s.motion.dir, tick := (if forward then o.motion else s.motion).tick, bits := header }
      exec (.capstanStep ⟨bots, eots, none⟩ header) s = .next (settle { s with
        inputs := { s.inputs with bots := bots, eots := eots }
        motion := o.motion, events := s.events ++ o.events
        framer := { s.framer with field :=
          if s.framer.gate = true ∨ s.motion.run + 1 < (if forward then 12 else 13) then none else some place }
        place := { s.place with position := if o.motion.refValid then s.place.position else none } }) ∧
      o.motion.lastDir = some s.motion.dir ∧ .stepped ∈ o.events ∧
      (zeroes → o.motion.tick = 0 ∧ o.motion.refValid = true) ∧
      (¬ zeroes → o.motion.refValid = s.motion.refValid ∧
        o.motion.tick = match s.motion.dir with | .forward => s.motion.tick + 1 | .reverse => s.motion.tick - 1))

/-- R79, R81: an unplanned controlled stop begun at a rate takes exactly the braking distance at that rate, moving at every
step before, and loads it as the overshoot; the reference is kept. No marker or limit stands within the distance. -/
def Obligations.BrakingDistance : Prop :=
  ∀ (e : CtlEnv) (m : Motion), SetupInRange e.setup → e.bots = false → e.eots = false →
    m.state = .decelerating → m.decel = .unplanned → m.seek = .none → m.waiting = none → m.ramp = 0 →
    m.overshoot = 0 → e.setup.startRate.toNat < m.rate → m.rate ≤ 63 →
    let n := (m.rate - e.setup.startRate.toNat) * e.setup.decel.toNat
    (match m.dir with
      | .forward => m.pos + n < e.setup.maxTape.toNat
      | .reverse => 0 ≤ m.pos - n) →
    (∀ k, k < n → (stepsOf e k m).moving = true) ∧
    (stepsOf e n m).state = .stopped ∧ (stepsOf e n m).rate = 0 ∧ (stepsOf e n m).request = none ∧
    (stepsOf e n m).lastOvershoot = BitVec.ofNat 16 n ∧ (stepsOf e n m).refValid = m.refValid ∧
    (stepsOf e n m).pos = match m.dir with | .forward => m.pos + n | .reverse => m.pos - n

/-- R77, R78, R80: a move-to from rest arrives at its target exactly: it moves at every step before, one tick a step, rests
on the target tick, and its overshoot is 0. Its first step is the one after the start (log 8). -/
def Obligations.PlannedMoveArrives : Prop :=
  ∀ (e : CtlEnv) (m : Motion) (t : Int) (r : Nat), SetupInRange e.setup → e.bots = false → e.eots = false →
    m.state = .stopped → m.request = some (.moveTo t r) → m.waiting = none → m.seek = .none → m.overshoot = 0 →
    e.setup.startRate.toNat ≤ r → r ≤ 63 → 0 ≤ t → t ≤ e.setup.maxTape.toNat → t ≠ m.pos →
    m.dir = (if m.pos < t then .forward else .reverse) →
    let first := (startMove e m).motion
    let n := (t - m.pos).natAbs
    (∀ k, k < n → (stepsOf e k first).moving = true) ∧
    (stepsOf e n first).state = .stopped ∧ (stepsOf e n first).pos = t ∧ (stepsOf e n first).lastOvershoot = 0 ∧
    (stepsOf e n first).request = none ∧ (stepsOf e n first).refValid = m.refValid

/-- R77, R82: when the dwell or the settle wait has run out (log 7) the waiting move goes on. From DWELL, with no marker or
limit in the way, it moves at START RATE in the direction that DIR shows, and its first step is the next one (log 8);
otherwise it takes none and its request ends. Outside the wait nothing happens. -/
def Obligations.WaitExpiry : Prop :=
  ∀ s : State,
    (s.motion.state ≠ .dwell → exec .dwellExpiry s = .next s) ∧
    (s.motion.settling = false → exec .settleDelayExpiry s = .next s) ∧
    (s.motion.state = .dwell → ∀ o, o = startMove (ctlEnv s) s.motion →
      exec .dwellExpiry s = .next (settle { s with
        motion := o.motion, events := s.events ++ o.events
        place := { s.place with position := if o.motion.refValid then s.place.position else none } }) ∧
      o.motion.tick = s.motion.tick ∧ o.motion.refValid = s.motion.refValid ∧
      (startRefused (ctlEnv s) s.motion = none →
        o.events = [] ∧ o.motion.moving = true ∧ o.motion.rate = (profile s).startRate.toNat ∧
        o.motion.dir = s.motion.dir ∧ o.motion.request = s.motion.request ∧ o.motion.run = 0) ∧
      (∀ r, startRefused (ctlEnv s) s.motion = some r →
        o.events = [.boundary r, .stoppedAt s.motion.tick 0 false] ∧ o.motion.state = .stopped ∧
        o.motion.request = none ∧ o.motion.lastOvershoot = 0)) ∧
    (s.motion.settling = true → s.motion.state = .stopped →
      ∀ o, o = goOn (ctlEnv s) { s.motion with settling := false, settleTimer := 0 } →
      exec .settleDelayExpiry s = .next (settle { s with
        motion := o.motion, events := s.events ++ o.events
        place := { s.place with position := if o.motion.refValid then s.place.position else none } }))

/-- R91, R146, R147, R150, R151: a TACH pulse clears the stall count. A stall of a moving transport is nothing while STALL is
masked; unmasked it latches STALL, the transport is held and INHIBITED, and the active order ends with FAULT (log 7). -/
def Obligations.TachAndStall : Prop :=
  ∀ s : State,
    exec .tachPulse s = .next { s with motion := { s.motion with stallCount := 0 } } ∧
    (s.motion.moving = false → exec .stall s = .next s) ∧
    (s.motion.moving = true → s.health.mask &&& stallBit ≠ 0#6 → Steady s →
      exec .stall s = .next { s with motion := { s.motion with stallCount := 0 } }) ∧
    (∀ a, Sound s → Underway s a → s.health.mask &&& stallBit = 0#6 →
      ∃ t, exec .stall s = .next t ∧ t.motion.state = .inhibited ∧ t.motion.rate = 0 ∧
        t.motion.refValid = false ∧ t.place.position = none ∧ t.framer.gate = false ∧
        t.health.present &&& stallBit = stallBit ∧ t.health.recorded &&& stallBit = stallBit ∧
        t.seq = { s.seq with queue := [], active := none, haltPending := false } ∧
        t.reports.lastCause = .fault ∧ t.reports.lastTag = a.entry.tag ∧ t.motion.tick = s.motion.tick ∧
        t.host = s.host ∧ t.setup = s.setup ∧ t.link = s.link ∧ t.health.mask = s.health.mask ∧
        t.health.control = s.health.control ∧ t.place.map = s.place.map ∧ (s.framer.capture = none →
          t.banks = { s.banks with a := s.banks.a.afterDiscard, b := s.banks.b.afterDiscard }))

/-- R88, R100: a zeroing seek that is exhausted (log 7) hands the boundary and stops under control, and the order ends at
the rest with LOAD FAILED from stage 1, its position UNKNOWN; outside a seek nothing happens. -/
def Obligations.SeekExhausted : Prop :=
  ∀ (a : Active) (s : State),
    (seekRunning s.motion = false → exec .seekExhausted s = .next s) ∧
    (Underway s a → seekRunning s.motion = true →
      exec .seekExhausted s = .next { s with
        seq := { s.seq with active := some { a with
          cause := some { cause := .loadFailed, stage := a.stage }, final := some none
          phase := .ending, stage := .reference } }
        motion := { s.motion.braked with seek := .ended } })

/-! ### The tape -/

/-- R61 to R64: the header that the Framer records for a block is good when it is read back in either direction, and every
field comes back. -/
def Obligations.HeaderRoundTrip : Prop :=
  ∀ (r : Recording) (dir : Dir) (origin : Int), (r.kind = .data ∨ r.lengthCode = 0) →
    goodHeader (recovered dir (passing dir (recordedBits r))) origin = some
      { kind := r.kind, part := r.part, lengthCode := r.lengthCode, copy := r.copy, number := r.number,
        origin := origin }

/-- R63, R64, R66, R98, R114: a header event outside a scan, with no capture armed: none where no whole field has just
passed that the Framer reads (`CapstanStep`), or in SLEEP; a bad header restarts the gap count only; a good one, its origin derived from the counter
where the field met the gap, loads LAST HEADER and teaches the map if R114 allows it. One field gives one event. -/
def Obligations.HeaderEvent : Prop :=
  ∀ (bits : BitVec 64) (s : State),
    (s.framer.field = none ∨ s.power.state = .sleep → exec (.headerEvent bits) s = .next s) ∧
    (∀ (a : Active) (place : FieldPlace) (f : HeaderField) (origin : Int), Steady s → fieldEnds s = some place →
      f = recovered place.dir bits →
      origin = (match place.dir with | .forward => place.tick.toInt - 36 | .reverse => place.tick.toInt - 24) →
      s.framer.capture = none → s.seq.active = some a →
      (goodHeader f origin = none →
        exec (.headerEvent bits) s = .next { s with
          framer := { s.framer with field := none, headerCrc := headerCheck (fieldContent f) }
          seq := { s.seq with active := some { a with gap := 0 } } }) ∧
      (∀ h, goodHeader f origin = some h →
        a.phase ≠ .scan → a.phase ≠ .scanBack → a.phase ≠ .confirm → a.phase ≠ .complete →
        exec (.headerEvent bits) s = .next { s with
          framer := { s.framer with
            field := none, headerCrc := headerCheck (fieldContent f), lastHeader := fieldContent f }
          place := if teaches s { a with gap := 0 } h then mapInsert h.part h.number h.origin .learned s.place else s.place
          seq := { s.seq with active := some { a with
            gap := 0, scan := { a.scan with ends := noteEnd h a.scan.ends } } } }))

/-- R106, R114: the header of the block that a LOCATE seeks ends its scan: SUCCESS arises in stage 3, the final position is
before the block at the header's origin, and the transport stops, to park. -/
def Obligations.LocateFinds : Prop :=
  ∀ (bits : BitVec 64) (place : FieldPlace) (f : HeaderField) (h : Header) (a : Active) (s : State), Underway s a →
    s.framer.capture = none → a.kind = some .locate → a.phase = .scan → a.stage = .scan →
    fieldEnds s = some place → f = recovered place.dir bits →
    goodHeader f place.origin = some h → a.scan.origin ≤ h.origin →
    h.origin < partEnd a.snap a.part → h.part = a.part → h.kind ≠ .endMark →
    (h.number.toNat : Int) = a.scan.target →
    exec (.headerEvent bits) s = .next { s with
      framer := { s.framer with field := none, headerCrc := headerCheck (fieldContent f), lastHeader := fieldContent f }
      place := if teaches s { a with gap := 0 } h then mapInsert h.part h.number h.origin .learned s.place else s.place
      seq := { s.seq with active := some { a with
        gap := 0, cause := some { cause := .success, stage := .scan }
        final := some (some { part := a.part, next := h.number, slot := h.origin, eod := false })
        phase := .stopping, stage := .settle } }
      motion := s.motion.halting }

/-- R72, R118, R124: in the stream of a READ BLOCKS at STREAM RATE, the first copy of the expected DATA block claims a bank
and arms its capture, and the running slot origin becomes that copy's origin. -/
def Obligations.CaptureArmed : Prop :=
  ∀ (bits : BitVec 64) (place : FieldPlace) (f : HeaderField) (h : Header) (a : Active) (p : Position) (id : BankId)
    (s : State), Underway s a →
    s.framer.capture = none → a.kind = some .readBlocks → a.phase = .scan →
    fieldEnds s = some place → f = recovered place.dir bits →
    goodHeader f place.origin = some h → s.place.position = some p → a.stream.copySeen = false →
    p.slot ≤ h.origin → h.kind = .data → h.part = a.part → inRegion a.snap a.part h.origin = true →
    h.number = p.next → armable s a = true → s.banks.toClaim = some id →
    exec (.headerEvent bits) s = .next { s with
      framer := { s.framer with
        field := none, headerCrc := headerCheck (fieldContent f), lastHeader := fieldContent f
        capture := some { bank := some id, origin := h.origin, lengthCode := h.lengthCode } }
      place := { (if teaches s { a with gap := 0 } h then mapInsert h.part h.number h.origin .learned s.place
          else s.place) with position := some { p with slot := h.origin } }
      banks := { s.banks.set id
          { state := .capturing, data := [], part := h.part, number := h.number, kind := .data, copy := h.copy
            length := dataLength h.lengthCode, owner := a.entry.tag, moved := 0, age := s.banks.nextAge } with
        lastClaim := some id, nextAge := s.banks.nextAge + 1 }
      seq := { s.seq with active := some { a with gap := 0, stream := { a.stream with copySeen := true } } } }

/-- R65, R118, R124: the result of a capture in the stream of a READ BLOCKS short of its last block and of the limits of its
scan: good, the bank is FULL READ with the data, the block is done and the running position moves past it; bad, the bank is
EMPTY and the block is still expected. With no capture armed there is no result. -/
def Obligations.CaptureResult : Prop :=
  ∀ (data : List Byte) (trailer : BitVec 32) (s : State),
    (s.framer.capture = none → exec (.captureResult data trailer) s = .next s) ∧
    (∀ (a : Active) (p : Position) (k : Capture) (id : BankId), Underway s a →
      a.kind = some .readBlocks → a.phase = .scan → s.place.position = some p → s.framer.capture = some k →
      k.bank = some id → a.stream.done + 1 < paramCount a.entry.params →
      s.motion.pos < partEnd a.snap a.part → a.gap < a.snap.gapLimit.toNat →
      (captureGood k data trailer s = true →
        exec (.captureResult data trailer) s = .next { s with
          framer := { s.framer with capture := none, dataCrc := dataCrcReg data }
          banks := s.banks.set id { s.banks.get id with state := .fullRead, data := data }
          place := { s.place with position := some {
            part := a.part, next := nextNumber p.next, slot := k.origin + footprint .data k.lengthCode, eod := false } }
          seq := { s.seq with active := some { a with stream := { a.stream with
            done := a.stream.done + 1, recovered := a.stream.recovered || decide (0 < a.stream.retry)
            retry := 0, copySeen := false } } } }) ∧
      (captureGood k data trailer s = false →
        exec (.captureResult data trailer) s = .next { s with
          framer := { s.framer with capture := none, dataCrc := dataCrcReg data }
          banks := s.banks.set id Bank.cleared }))

/-- R118, R133 to R135, R137, R138: a verdict is ignored while none is awaited, and the close of the window without a strobe
is a bad verdict; while one is awaited either row acts at any tick (log 7). A good verdict returns the block's bank to
EMPTY and counts the block done. Short of the count, the next block begins at its end: a FENCE, or the oldest FULL WRITE
bank, which is then ON TAPE. At the count, with no waiting order, SUCCESS arises and the END begins there. A bad verdict
below REWRITE LIMIT counts a rewrite and begins the same block again with the next copy number; at the limit WRITE FAILED
arises and the END, with the number of the block still sought, begins there. The EARLY WARNING mark is set as such a
recording begins, which is the model's choice (log 41). -/
def Obligations.Verdict : Prop :=
  ∀ s : State,
    ((∀ r, s.framer.writer ≠ .verdict r) →
      (∀ good, exec (.verifyVerdict good) s = .next s) ∧ exec .verdictWindowExpiry s = .next s) ∧
    (∀ (a : Active) (r : Recording), Underway s a → s.framer.writer = .verdict r → s.motion.refValid = true →
      s.health.writeFault = false → a.stream.recorded = true → a.phase ≠ .waitBank → a.phase ≠ .repWait →
      (∀ next : Recording, next = {
          kind := .fence, origin := r.blockEnd, part := a.part, number := nextNumber r.number
          lengthCode := 0, copy := 0, bank := none } →
        a.kind = some .writeFences → r.bank = none → a.stream.done + 1 < paramCount a.entry.params →
        fits a.snap next = true →
        exec (.verifyVerdict true) s = .next { s with
          framer := { s.framer with writer := .recording next, gate := true, fieldBytes := [] }
          place := { s.place with position := some {
            part := a.part, next := nextNumber r.number, slot := r.blockEnd, eod := false } }
          seq := { s.seq with active := some { a with stream := { a.stream with
            done := a.stream.done + 1, recovered := a.stream.recovered || decide (0 < a.stream.rewrites)
            rewrites := 0, recorded := true
            warning := a.stream.warning || passesWarning a.snap a.part next.blockEnd } } } }) ∧
      (∀ (id full : BankId) (next : Recording), r.bank = some id →
        (s.banks.set id Bank.cleared).fullFor a.entry.tag = some full → next = {
          kind := .data, origin := r.blockEnd, part := a.part, number := nextNumber r.number
          lengthCode := paramLength a.entry.params, copy := 0, bank := some full } →
        a.kind = some .writeBlocks → a.stream.done + 1 < paramCount a.entry.params → fits a.snap next = true →
        exec (.verifyVerdict true) s = .next { s with
          framer := { s.framer with writer := .recording next, gate := true, fieldBytes := [] }
          banks := (s.banks.set id Bank.cleared).set full { (s.banks.set id Bank.cleared).get full with
            state := .onTape, part := a.part, number := nextNumber r.number, kind := .data, copy := 0 }
          place := { s.place with position := some {
            part := a.part, next := nextNumber r.number, slot := r.blockEnd, eod := false } }
          seq := { s.seq with active := some { a with stream := { a.stream with
            done := a.stream.done + 1, recovered := a.stream.recovered || decide (0 < a.stream.rewrites)
            rewrites := 0, recorded := true
            warning := a.stream.warning || passesWarning a.snap a.part next.blockEnd } } } }) ∧
      (∀ mark : Recording, mark = {
          kind := .endMark, origin := r.blockEnd, part := a.part, number := nextNumber r.number
          lengthCode := 0, copy := 0, bank := none } →
        s.seq.queue = [] → paramCount a.entry.params ≤ a.stream.done + 1 →
        exec (.verifyVerdict true) s = .next { s with
          framer := { s.framer with writer := .recording mark, gate := true, fieldBytes := [] }
          banks := (match r.bank with | some id => s.banks.set id Bank.cleared | none => s.banks)
          place := { s.place with position := some {
            part := r.part, next := nextNumber r.number, slot := r.blockEnd, eod := false } }
          seq := { s.seq with active := some { a with
            cause := some { cause := .success, stage := a.stage }, phase := .write, stage := .settle
            stream := { a.stream with
              done := a.stream.done + 1, recovered := a.stream.recovered || decide (0 < a.stream.rewrites)
              rewrites := 0, recorded := true, endUse := .finish
              warning := a.stream.warning || passesWarning a.snap a.part mark.blockEnd } } } }) ∧
      (∀ mark : Recording, mark = {
          kind := .endMark, origin := r.blockEnd, part := a.part, number := r.number
          lengthCode := 0, copy := 0, bank := none } →
        a.snap.rewriteLimit.toNat ≤ a.stream.rewrites →
        ∀ i : Instr, i = .verifyVerdict false ∨ i = .verdictWindowExpiry → exec i s = .next { s with
          framer := { s.framer with writer := .recording mark, gate := true, fieldBytes := [] }
          seq := { s.seq with active := some { a with
            cause := some { cause := .writeFailed, stage := a.stage }, phase := .write, stage := .settle
            stream := { a.stream with
              recorded := true, endUse := .finish
              warning := a.stream.warning || passesWarning a.snap a.part mark.blockEnd } } } }) ∧
      (∀ again : Recording, again = { r with origin := r.blockEnd, copy := r.copy + 1 } →
        a.stream.rewrites < a.snap.rewriteLimit.toNat → fits a.snap again = true →
        ∀ i : Instr, i = .verifyVerdict false ∨ i = .verdictWindowExpiry → exec i s = .next { s with
          framer := { s.framer with writer := .recording again, gate := true, fieldBytes := [] }
          banks := { s.banks with retries := bump s.banks.retries }.putOnTape again
          place := { s.place with position := some {
            part := r.part, next := r.number, slot := r.blockEnd, eod := false } }
          seq := { s.seq with active := some { a with stream := { a.stream with
            rewrites := a.stream.rewrites + 1, retries := a.stream.retries + 1, recorded := true
            warning := a.stream.warning || passesWarning a.snap r.part again.blockEnd } } } }))

/-- R137: when the END that ends an order is complete (log 7) the gate drops, the position is before the END with EOD set,
and the transport stops under control in stage 4. Outside an END nothing happens. -/
def Obligations.EndMarkComplete : Prop :=
  ∀ s : State,
    ((∀ r, s.framer.writer = .recording r → r.kind ≠ .endMark) → exec .endMarkComplete s = .next s) ∧
    (∀ (a : Active) (r : Recording), s.seq.active = some a → s.events = [] → s.power.state ≠ .sleepPending →
      s.motion.moving = true → a.snap.startRate.toNat < s.motion.rate → s.motion.toRest = false →
      s.motion.refValid = true → stopWanted s a = false →
      s.framer.writer = .recording r → r.kind = .endMark → a.stream.endUse = .finish →
      exec .endMarkComplete s = .next { s with
        framer := { s.framer with writer := .idle, gate := false, fieldBytes := [] }
        place := { s.place with position := some { part := r.part, next := r.number, slot := r.origin, eod := true } }
        seq := { s.seq with active := some { a with phase := .ending, stage := .settle } }
        motion := s.motion.halting })

/-- R82, R127, R131: a reading order's reposition cycle whose resume condition holds, and a WRITE BLOCKS that finds its FULL
WRITE bank, run forward at STREAM RATE; after a move in reverse the run dwells first. Without the condition they wait. -/
def Obligations.RunsForward : Prop :=
  ∀ s : State,
    (resumeDue s = false → exec .repositionResume s = .next s) ∧
    (writeWaitDue s = false → exec .writeWaitEnd s = .next s) ∧
    (∀ a, s.seq.active = some a → s.events = [] → s.power.state = .active → Anchored s →
      s.motion.state = .stopped → s.motion.settling = false → s.motion.lastDir = some .reverse →
      a.snap.reversalDwell ≠ 0 →
      let m : Motion := { s.motion with
        seek := .none, request := some (.run .forward a.snap.streamRate.toNat), overshoot := 0
        state := .dwell, dir := .forward, dwellTimer := a.snap.reversalDwell.toNat }
      (resumeDue s = true → a.isRead = true → a.isWrite = false →
        exec .repositionResume s = .next { s with
          motion := m
          seq := { s.seq with active := some { a with
            phase := .scan, stage := .scan, gap := 0
            scan := { a.scan with origin := (s.place.position.map Position.slot).getD 0 } } } }) ∧
      (writeWaitDue s = true → a.isWrite = true →
        exec .writeWaitEnd s = .next { s with
          motion := m, seq := { s.seq with active := some { a with phase := .confirm, stage := .scan } } }))

/-- R106, R109, R123: the gap count of a scan reaching GAP LIMIT (log 7) is BLANK: a reading order stops and ends where it
is; a positioning order ends at its landmark, parking where it has one. Outside a scan nothing happens. -/
def Obligations.GapLimitReached : Prop :=
  ∀ (a : Active) (s : State),
    (s.seq.active = some a → a.phase ≠ .scan → a.phase ≠ .scanBack → exec .gapLimitReached s = .next s) ∧
    (Underway s a → (a.phase = .scan ∨ a.phase = .scanBack) →
      exec .gapLimitReached s = .next { s with
        seq := { s.seq with active := some (
          if a.isRead = true ∧ a.phase = .scan then
            { a with cause := some { cause := .blank, stage := a.stage }, phase := .ending, stage := .settle }
          else { a with
            cause := some { cause := .blank, stage := a.stage }, final := some a.scan.landmark, stage := .settle
            phase := if a.scan.landmark.isSome then .stopping else .ending }) }
        motion := s.motion.halting })

/-! ### Sensors and faults -/

/-- R58, R94 to R96, R141: a cartridge inserted into an idle part is INSERTED and reported; one removed leaves it EMPTY, the map
empty, the reference INVALID and the position UNKNOWN, and is reported. The rows are the debounced change (log 10), and an
insertion brings the marker levels of its tape (log 9): with a cartridge present it changes these and the level only, and
a removal without one the level only. A removal with an order active ends it in the same step with MEDIUM REMOVED, or with
the cause that stands higher (R52), holds a transport that moves, and pushes the order's report and no other.
HEALTH_INPUT_CHANGE of CARTIN (log 11) is the same change, a change of the pin alone changes nothing but the pin and the
marker levels, and a host access of the same instant has its turn before the change, between its effects and an ending it
brings, or after it (log 3). -/
def Obligations.CartridgeChange : Prop :=
  ∀ (bots eots : Bool) (s : State),
    exec (.healthInputChange ⟨.cartin bots eots, .level, none⟩ true) s = exec (.cartridgeInserted bots eots) s ∧
    exec (.healthInputChange ⟨.cartin s.inputs.bots s.inputs.eots, .level, none⟩ false) s = exec .cartridgeRemoved s ∧
    (∀ v, exec (.healthInputChange ⟨.cartin bots eots, .pin, none⟩ v) s = .next { s with inputs := { s.inputs with
      bots := bots, eots := eots, cartin := { s.inputs.cartin with pin := v } } }) ∧
    (∀ how v, AccessAtInstant (fun host => .healthInputChange ⟨.cartin bots eots, how, host⟩ v)
      (.input (.cartin bots eots) how v) s) ∧
    (∀ a, Sound s → s.seq.active = some a → s.events = [] → s.power.state ≠ .sleep → s.power.state ≠ .sleepPending →
      Healthy s → s.place.cart ≠ .empty →
      ∃ t, exec .cartridgeRemoved s = .next t ∧ t.inputs = { s.inputs with cartin := .sampled false } ∧
        t.place.cart = .empty ∧ t.place.map = [] ∧ t.place.position = none ∧ t.motion.refValid = false ∧
        t.motion.moving = false ∧ t.motion.tick = s.motion.tick ∧ t.framer.gate = false ∧
        t.seq = { s.seq with queue := [], active := none, haltPending := false } ∧
        (∃ r, t.reports = s.reports.push r ∧ r.unsolicited = false ∧ r.tag = a.entry.tag ∧
          r.cause = (if outranks .mediumRemoved a.cause then .mediumRemoved
            else (a.cause.map CauseAt.cause).getD .success)) ∧
        t.host = s.host ∧ t.setup = s.setup ∧ t.health = s.health ∧ t.link = s.link ∧ t.power = s.power) ∧
    (Ready s →
    let into : Inputs := { s.inputs with bots := bots, eots := eots, cartin := .sampled true }
    let out : Inputs := { s.inputs with cartin := .sampled false }
    (s.place.cart = .empty →
      exec .cartridgeRemoved s = .next { s with inputs := out } ∧
      exec (.cartridgeInserted bots eots) s = .next { s with
        inputs := into, place := { s.place with cart := .inserted }
        reports := s.reports.push (baseReport .cartridgeInserted s) }) ∧
    (s.place.cart ≠ .empty →
      exec (.cartridgeInserted bots eots) s = .next { s with inputs := into } ∧
      ∃ t, t = { s with
          inputs := out, motion := { s.motion with refValid := false }
          place := { s.place with cart := .empty, map := [], position := none } } ∧
        exec .cartridgeRemoved s =
          .next { t with reports := s.reports.push (baseReport .cartridgeRemoved t) }))

/-- R95, R141, R145 to R151: WPROT (an operand of this row by log 11) moves only its level. In an idle part a HOT condition is
present and recorded and reported at its onset and imposes nothing; a DRIVER condition does the same and makes the
controller INHIBITED; masked, only the level moves. Asleep no level moves, and a change reported of the pin alone moves
only the pin (log 10). With an order active a DRIVER condition ends it in the same step with FAULT, or with the cause that
stands higher (R52), and pushes the order's report and no other: a transport that moves is held and loses its reference, one
at rest keeps it and takes the position that the stage gives; a streaming order keeps its running position (R130, R141). A
host access of the same instant has its turn before the change, between its effects and an ending it brings, or after it
(log 3). -/
def Obligations.HealthInput : Prop :=
  ∀ (s : State),
    (∀ how line v, AccessAtInstant (fun host => .healthInputChange ⟨line, how, host⟩ v) (.input line how v) s) ∧
    (∀ a, Sound s → s.seq.active = some a → s.events = [] → s.power.state ≠ .sleep → s.power.state ≠ .sleepPending →
      Healthy s → s.health.mask &&& driverBit = 0#6 →
      ∃ t, exec (.healthInputChange ⟨.health .drvflt, .level, none⟩ false) s = .next t ∧
        t.inputs = { s.inputs with drvflt := .sampled false } ∧ t.health.present = driverBit ∧
        t.health.recorded = s.health.recorded ||| driverBit ∧ t.motion.state = .inhibited ∧
        t.motion.tick = s.motion.tick ∧ t.framer.gate = false ∧ t.place.map = s.place.map ∧
        t.seq = { s.seq with queue := [], active := none, haltPending := false } ∧
        (∃ r, t.reports = s.reports.push r ∧ r.unsolicited = false ∧ r.tag = a.entry.tag ∧
          r.cause = (if outranks .fault a.cause then .fault
            else (a.cause.map CauseAt.cause).getD .success)) ∧
        t.host = s.host ∧ t.setup = s.setup ∧ t.link = s.link ∧
        (s.motion.moving = true → t.motion.rate = 0 ∧ t.motion.refValid = false ∧ t.place.position = none) ∧
        (s.motion.moving = false → t.motion.refValid = s.motion.refValid ∧ t.place.position =
          (if a.isStream then s.place.position
           else if s.motion.refValid = false then none
           else match a.stage with
             | .scan => a.scan.landmark
             | .settle => a.final.getD s.place.position
             | _ => none))) ∧
    (∀ v, s.power.state ≠ .sleep →
      exec (.healthInputChange ⟨.wprot, .level, none⟩ v) s = .next { s with inputs := { s.inputs with wprot := .sampled v } }) ∧
    (∀ how, s.power.state = .sleep ∨ how = .pin →
      exec (.healthInputChange ⟨.health .tempw, how, none⟩ true) s =
        .next { s with inputs := { s.inputs with tempw := { s.inputs.tempw with pin := true } } }) ∧
    (Ready s → s.motion.request = none → s.health.recorded = 0#6 →
      (s.health.mask &&& hotBit ≠ 0#6 →
        exec (.healthInputChange ⟨.health .tempw, .level, none⟩ true) s =
          .next { s with inputs := { s.inputs with tempw := .sampled true } }) ∧
      (s.health.mask &&& hotBit = 0#6 → ∀ t : State, t = { s with
          inputs := { s.inputs with tempw := .sampled true }
          health := { s.health with present := hotBit, recorded := hotBit } } →
        exec (.healthInputChange ⟨.health .tempw, .level, none⟩ true) s =
          .next { t with reports := s.reports.push (baseReport .faultOnset t) }) ∧
      (s.health.mask &&& driverBit = 0#6 → ∀ t : State, t = { s with
          inputs := { s.inputs with drvflt := .sampled false }
          health := { s.health with present := driverBit, recorded := driverBit }
          motion := { s.motion with state := .inhibited, waiting := none, settleTimer := 0, dwellTimer := 0 }
          power := { s.power with standbyTimer := 0 } } →
        exec (.healthInputChange ⟨.health .drvflt, .level, none⟩ false) s =
          .next { t with reports := s.reports.push (baseReport .faultOnset t) }))

/-! ### The Maintenance Link -/

/-- R46, R159, R160, R163, R168: frames of any operation. An invalid frame sets LINK ERROR, its count rises to 255 at most, and
nothing but the link's own registers changes. A frame sent as several commands (log 14), the select with some of its edges,
further edges, and the rest with the deselect, is the frame sent whole; in between LDO is driven, by the summary's bits as
LCLK falls. Without a frame in progress the edges are ignored and LDO is high impedance. A host access at the instant of the
deselect (log 3) is applied first, and then the frame is judged; where the frame is a clear action, FAULT RECORDED of the
reports that the access brings is taken after it (R46). So is a DEVICE RESET, a POKE of SUPERVISOR CONTROL then lands, and
its report of a change of LOCKOUT is not stored. -/
def Obligations.LinkFrames : Prop :=
  ∀ (op : LinkOp) (f : FrameBits) (s : State),
    (Alone f s → (f.edges ≠ 24 ∨ oddOnes (frameBits op f) = false ∨ itemAllowed op f.item = false) →
      ∃ t, exec (linkRow op f) s = .next t ∧ t = { s with link := t.link } ∧ t.link.error = true ∧
        t.link.errorCount = (if s.link.errorCount = 255 then 255 else s.link.errorCount + 1) ∧
        t.link.tickPair = s.link.tickPair ∧ t.link.blockPair = s.link.blockPair ∧
        t.link.sleepReq = s.link.sleepReq ∧ ldo t.link = none) ∧
    (Alone f s → ∀ e ≤ f.edges, ∃ u,
      exec (linkRow op { f with part := .opening, edges := e }) s = .next u ∧ u = { s with link := u.link } ∧
        (ldo u.link).isSome = true ∧
        (∀ n, n = (if f.clock then e - 1 else e) → n < 8 → ldo u.link = some ((healthSummary s).getLsbD (7 - n))) ∧
        (∀ d, e ≤ d → exec (linkRow op { f with part := .middle, edges := d }) u =
          exec (linkRow op { f with part := .opening, edges := d }) s) ∧
        exec (linkRow op { f with part := .closing }) u = exec (linkRow op f) s) ∧
    (s.link.frame.selected = false →
      ldo s.link = none ∧ exec (linkRow op { f with part := .middle }) s = .next s ∧
        exec (linkRow op { f with part := .closing, host := none, beside := .nothing }) s = .next s) ∧
    (∀ access u, plainAccess access = true → s.link.frame.selected = true → f.edges ≤ s.link.frame.edges →
      u = hostAccess access { s with link := { s.link with
        frame := { s.link.frame with selected := false, clock := f.clock && s.link.frame.clock } } } →
      exec (linkRow op { f with part := .closing, host := some access, beside := .nothing }) s =
        .next (judgeFrame (if clearsFaults s then reflag judgeFrame (keptReports access s) u else u))) ∧
    (Sound s → portActive s = true → s.link.frame.selected = false → f.part = .whole → f.host = some (.write 1 0xEA) →
      f.beside = .nothing → op = .poke → f.item = 5 → frameValid .poke f = true →
      ∃ t r, exec (linkRow op f) s = .next t ∧ t.reports.stored = [r] ∧ r.cause = .deviceReset ∧
        t.health.control = f.value.extractLsb' 0 4 ∧ t.health.mask = s.health.mask ∧ t.link.error = false)

/-- R160 to R162, R167: a valid PEEK or PING in a part that is awake: the answer is the Health Summary and the item's value
low byte first (zero for a PING), LINK ERROR clears after the answer, item 8 or 10 installs its pair, and nothing outside
the link changes. -/
def Obligations.PeekAnswers : Prop :=
  ∀ (f : FrameBits) (v : BitVec 16) (s : State), s.power.state ≠ .sleep → Alone f s →
    (frameValid .peek f = true → linkItem s f.item = some v →
      ∃ t, exec (.peek f) s = .next t ∧ t = { s with link := t.link } ∧
        linkResponse t.link = healthSummary s ++ v.extractLsb' 0 8 ++ v.extractLsb' 8 8 ∧
        t.link.error = false ∧ t.link.errorCount = s.link.errorCount ∧ t.link.sleepReq = s.link.sleepReq ∧
        t.link.tickPair = (if f.item = 8 then some s.motion.tick else s.link.tickPair) ∧
        t.link.blockPair = (if f.item = 10 then
            some { next := logicalBlock s, part := shownPart s, known := s.place.position.isSome }
          else s.link.blockPair)) ∧
    (frameValid .ping f = true →
      ∃ t, exec (.ping f) s = .next t ∧ t = { s with link := t.link } ∧
        linkResponse t.link = healthSummary s ++ 0#8 ++ 0#8 ∧ t.link.error = false ∧
        t.link.errorCount = s.link.errorCount ∧ t.link.sleepReq = s.link.sleepReq ∧
        t.link.tickPair = s.link.tickPair ∧ t.link.blockPair = s.link.blockPair)

/-- R56, R148, R151, R155 to R157, R163, R164, R174, R177: a valid POKE in an idle part that is awake: of FAULT MASK and
SUPERVISOR CONTROL the low bits are written, the faults whose conditions hold unmasked are present, recorded and, where
newly recorded, reported, a motion fault among them makes the controller INHIBITED, a change of LOCKOUT is reported, and
SLEEP REQUEST set puts the idle part to sleep at once. Nothing else changes outside the link. -/
def Obligations.PokeWrites : Prop :=
  ∀ (f : FrameBits) (s : State), Ready s → s.motion.request = none → Alone f s → frameValid .poke f = true →
    ∃ t, exec (.poke f) s = .next t ∧ t.link.error = false ∧ t.link.errorCount = s.link.errorCount ∧
      t.link.tickPair = s.link.tickPair ∧ t.link.blockPair = s.link.blockPair ∧
      (f.item = 4 →
        let present := conditions s &&& ~~~(f.value.extractLsb' 0 6)
        let faulty := present &&& motionFaults ≠ 0#6
        let u : State := { s with
          health := { s.health with
            mask := f.value.extractLsb' 0 6, present := present, recorded := s.health.recorded ||| present }
          motion := if faulty then
              { s.motion with state := .inhibited, waiting := none, settleTimer := 0, dwellTimer := 0 }
            else s.motion
          power := if faulty then { s.power with standbyTimer := 0 } else s.power }
        t.link.sleepReq = s.link.sleepReq ∧
        t = { u with
          link := t.link
          reports := [0, 1, 2, 3, 4, 5].foldl (fun q i =>
            if (present &&& ~~~s.health.recorded).getLsbD i then q.push (baseReport .faultOnset u) else q)
            s.reports }) ∧
      (f.item = 5 →
        let u : State := { s with health := { s.health with control := f.value.extractLsb' 0 4 } }
        t.link.sleepReq = s.link.sleepReq ∧
        t = { u with
          link := t.link
          reports := if f.value.getLsbD 0 = s.health.lockout then s.reports
            else s.reports.push (baseReport (if f.value.getLsbD 0 then .lockoutSet else .lockoutCleared) u) }) ∧
      (f.item = 6 → t.link.sleepReq = f.value.getLsbD 0 ∧
        (f.value.getLsbD 0 = false ∨ s.link.sleepReq = true → t = { s with link := t.link }) ∧
        (f.value.getLsbD 0 = true → s.link.sleepReq = false → t = { s with
          link := t.link
          power := { s.power with
            state := .sleep, standbyTimer := 0, deadlineTimer := 0, lost := 0, lostActive := false }
          seq := { s.seq with staging := [] }
          motion := { s.motion with waiting := none, settleTimer := 0, dwellTimer := 0, seek := .none } }))

/-- R152, R166: a valid PEEK-CLEAR in a part that is awake: item 1 clears the POWER-ON flag, item 3 makes a clear action
whatever CLEAR AUTHORITY says, and any other item is only read. -/
def Obligations.PeekClearClears : Prop :=
  ∀ (f : FrameBits) (s : State), Sound s → s.power.state ≠ .sleep → Alone f s → frameValid .peekClear f = true →
    ∃ t, exec (.peekClear f) s = .next t ∧ t.link.error = false ∧ t.link.sleepReq = s.link.sleepReq ∧
      (f.item = 1 → t = { s with link := t.link, health := { s.health with powerOnFlag := false } }) ∧
      (f.item = 3 →
        t.health.present = s.health.present &&& (staticFaults ||| (latchedFaults &&& conditions s)) ∧
        t = { s with
          link := t.link
          health := { s.health with
            present := t.health.present, recorded := s.health.recorded &&& t.health.present }
          motion := { s.motion with
            state := if s.motion.state = .inhibited ∧ t.health.motionFault = false then .stopped
              else s.motion.state } }) ∧
      (f.item ≠ 1 → f.item ≠ 3 → t = { s with link := t.link })

/-! ### Power and resets -/

/-- R5, R173, R174, R177: STANDBY when its condition holds, nothing otherwise; the deferred entry with SLEEP PENDING and no
order active, nothing otherwise; the Host Port's activation after a wake. STANDBY and the activation act whatever the
standby timer and the 2 ms show, for each row stands for the moment at which its time has passed (log 7). -/
def Obligations.PowerTimers : Prop :=
  ∀ s : State,
    exec .hostPortActivation s = .next { s with power := { s.power with portWait := 0 } } ∧
    (let due := s.power.state = .active ∧ s.setup.standbyDelay ≠ 0 ∧ s.seq.active = none ∧ s.seq.queue = [] ∧
        s.motion.state = .stopped ∧ s.inputs.rstLow = false
     (due → exec .standby s = .next { s with power := { s.power with state := .standby, standbyTimer := 0 } }) ∧
     (¬ due → exec .standby s = .next s)) ∧
    (s.power.state = .sleepPending → s.seq.active = none → s.inputs.rstLow = false → s.motion.state ≠ .dwell →
      exec .deferredEntry s = .next { s with
        power := { s.power with
          state := .sleep, standbyTimer := 0, deadlineTimer := 0, lost := s.seq.queue.length, lostActive := false }
        seq := { s.seq with staging := [], queue := [], haltPending := false }
        motion := { s.motion with
          request := none, waiting := none, settling := false, settleTimer := 0, dwellTimer := 0, seek := .none }
        events := [] }) ∧
    (s.power.state ≠ .sleepPending ∨ s.seq.active.isSome = true ∨ s.inputs.rstLow = true →
      exec .deferredEntry s = .next s)

/-- R84, R171, R172, R175 to R177: a forced entry, by SLP/ or by the deadline (log 7): the part is asleep, the gate is down,
no order is left and their number is kept; a moving transport was held and lost its reference and position, one at rest
keeps them. The reports, the banks and the map keep what they held. -/
def Obligations.ForcedEntry : Prop :=
  ∀ (i : Instr) (s : State),
    (i = .forcedEntry ∧ s.inputs.rstLow = false ∧ s.power.state ≠ .sleep) ∨
      (i = .sleepDeadline ∧ s.power.state = .sleepPending) →
    ∃ t, exec i s = .next t ∧ t.power.state = .sleep ∧ t.framer.gate = false ∧ t.framer.writer = .idle ∧
      t.power.lost = s.seq.queue.length + (if s.seq.active.isSome then 1 else 0) ∧
      t.power.lostActive = s.seq.active.isSome ∧
      t.seq = { s.seq with staging := [], queue := [], active := none, haltPending := false } ∧
      t.motion.moving = false ∧ t.motion.tick = s.motion.tick ∧
      t.motion.refValid = (s.motion.refValid && !s.motion.moving) ∧
      (s.motion.moving = true → t.place.position = none) ∧
      (s.motion.moving = false → t.place.position = s.place.position) ∧
      t.place.map = s.place.map ∧ t.reports = s.reports ∧
      (s.framer.capture = none → t.banks = s.banks) ∧ t.setup = s.setup ∧ t.health = s.health ∧
      t.host = s.host ∧ t.link = s.link

/-- R93, R117, R178: the wake when both sleep sources are clear: the part is ACTIVE with its Host Port inactive for 2 ms
more (R5), the controller in its wake state with the counter kept, the cartridge as CARTIN shows it and never LOADED, the
faults those whose conditions hold, and one report, which tells what the sleep cut off (R55). -/
def Obligations.WakeUp : Prop :=
  ∀ s : State, s.inputs.rstLow = false → s.power.state = .sleep → s.link.sleepReq = false →
    ∃ t, exec .wake s = .next t ∧ t.power.state = .active ∧ t.power.portWait = 2 ∧ portActive t = false ∧
      t.motion.tick = s.motion.tick ∧ t.motion.refValid = false ∧ t.motion.lastDir = none ∧ t.motion.rate = 0 ∧
      (t.motion.state = .inhibited ↔ t.health.motionFault = true) ∧ (t.health.motionFault = false →
        t.motion.state = .stopped) ∧
      t.place.cart = (if s.inputs.cartin.pin then .inserted else .empty) ∧ t.place.wpLatch = false ∧
      t.place.position = none ∧ t.place.map = [] ∧ t.setup = s.setup ∧ t.link = s.link ∧
      t.health = { s.health with
        present := conditions t &&& ~~~s.health.mask
        recorded := (s.health.recorded ||| t.health.present) &&& t.health.present } ∧
      ∃ r, t.reports.stored = [r] ∧ r.cause = .wake ∧ r.residual = BitVec.ofNat 16 s.power.lost ∧
        r.stage = (if s.power.lostActive then .reference else .startChecks)

/-- R19, R41, R117, R144, R178 to R181: what every kind of reset leaves of the Host Port, the order side and the streaming
state; the assertion of RST/ leaves it already (log 25). The setup takes its defaults after POR and RST/ and is kept after
DEVICE RESET and wake. A power-on reset clears the supervisor's registers, the counter and the map. The others keep the
supervisor's registers and the counter; DEVICE RESET and RST/ hold a transport that moved, and keep the map while a
cartridge is present; a wake empties it. DEVICE RESET and the release of RST/, where log 25 puts them, take the cartridge
state from CARTIN (R117), make the clear action, DEVICE RESET only while CLEAR AUTHORITY allows it (R153), and judge the
sleep sources (R180, R181). A release in a part that slept at the assertion makes the changes of the wake first. -/
def Obligations.AfterEveryReset : Prop :=
  (∀ (i : Instr) (s : State), ResetBy i s →
    ∃ t, exec i s = .next t ∧
      (t.host.setupIndex = 0 ∧ t.host.shadow = [] ∧ t.host.snaps = [] ∧ t.host.dataError = false ∧
        t.host.setupError = false ∧ t.host.orderRejected = false ∧ t.host.paramOverflow = false ∧
        t.host.intEnable = 0 ∧ t.host.lastSetupError = 0) ∧
      (t.seq.staging = [] ∧ t.seq.queue = [] ∧ t.seq.active = none ∧ t.seq.haltPending = false ∧ t.seq.tag = 0) ∧
      (t.banks.a = Bank.cleared ∧ t.banks.b = Bank.cleared ∧ t.banks.lastClaim = none ∧ direction t = .none ∧
        hostBankRemaining t = 0 ∧ t.banks.repositions = 0 ∧ t.banks.retries = 0 ∧ t.framer.writer = .idle ∧
        t.framer.gate = false ∧ t.framer.capture = none) ∧
      t.setup = (match i with | .deviceReset => s.setup | .wake => s.setup | _ => Setup.defaults) ∧
      (∀ pins, i = .powerOn pins →
        t.motion.tick = 0 ∧ t.motion.refValid = false ∧ t.motion.lastDir = none ∧ t.place.position = none ∧
        t.place.map = [] ∧ t.place.cart = (if pins.cartin then .inserted else .empty) ∧ t.health.mask = 0 ∧
        t.health.control = 0 ∧ t.health.powerOnFlag = true ∧ t.link = Link.afterPowerOn) ∧
      (i = .deviceReset ∨ i = .rstAssertion →
        t.health.mask = s.health.mask ∧ t.health.control = s.health.control ∧
        t.health.powerOnFlag = s.health.powerOnFlag ∧ t.link = s.link ∧ t.motion.tick = s.motion.tick ∧
        t.motion.lastDir = s.motion.lastDir ∧ t.motion.lastOvershoot = 0 ∧ t.motion.moving = false ∧
        (s.motion.moving = true → t.motion.rate = 0 ∧ t.motion.refValid = false ∧ t.place.position = none)) ∧
      (i = .deviceReset →
        t.place.map = (if s.inputs.cartin.pin = false ∧ s.place.cart ≠ .empty then [] else s.place.map) ∧
        t.place.cart = (if s.inputs.cartin.pin = false then .empty else if s.place.cart = .loaded then .loaded
          else .inserted) ∧
        (∀ present, present = presentFor s.health (conditions t) →
          t.health.present = (if s.health.supervisorOnly then present
            else present &&& (staticFaults ||| (latchedFaults &&& conditions t))) ∧
          t.health.recorded = (if s.health.supervisorOnly then s.health.recorded ||| present
            else (s.health.recorded ||| present) &&& t.health.present)) ∧
        t.power.state = (if s.inputs.slp.level = false ∨ s.link.sleepReq = true then .sleep else .active)) ∧
      (i = .wake →
        t.health.mask = s.health.mask ∧ t.health.control = s.health.control ∧
        t.health.powerOnFlag = s.health.powerOnFlag ∧ t.link = s.link ∧ t.motion.tick = s.motion.tick ∧
        t.motion.refValid = false ∧ t.place.position = none ∧ t.place.map = [] ∧ t.power.state = .active) ∧
      (i = .rstAssertion → t.inputs.rstLow = true ∧ t.reports = s.reports ∧ t.place.map = s.place.map ∧
        t.power.state = .active ∧ portActive t = false ∧ t.motion.refValid = (s.motion.refValid && !s.motion.moving))) ∧
  ∀ s : State, Sound s → HeldInReset s → s.inputs.rstLow = true →
    ∃ t, exec .rstRelease s = .next t ∧ t.inputs.rstLow = false ∧ t.setup = s.setup ∧ t.link = s.link ∧
      t.health.mask = s.health.mask ∧ t.health.control = s.health.control ∧ t.motion.tick = s.motion.tick ∧
      (∀ present, present = presentFor s.health (conditions t) →
        t.health.present = present &&& (staticFaults ||| (latchedFaults &&& conditions t)) ∧
        t.health.recorded = (s.health.recorded ||| present) &&& t.health.present) ∧
      t.power.state = (if s.inputs.slp.level = false ∨ s.link.sleepReq = true then .sleep else .active) ∧
      (s.power.rstFromSleep = false →
        t.place.cart = (if s.inputs.cartin.pin = false then .empty else if s.place.cart = .loaded then .loaded
          else .inserted) ∧
        t.place.wpLatch = s.place.wpLatch ∧ t.power.portWait = s.power.portWait ∧
        (s.inputs.cartin.pin = true ∨ s.place.cart = .empty →
          t.place.map = s.place.map ∧ t.place.position = s.place.position ∧ t.motion.refValid = s.motion.refValid) ∧
        (s.inputs.cartin.pin = false → s.place.cart ≠ .empty →
          t.place.map = [] ∧ t.place.position = none ∧ t.motion.refValid = false)) ∧
      (s.power.rstFromSleep = true →
        t.place.cart = (if s.inputs.cartin.pin then .inserted else .empty) ∧ t.place.wpLatch = false ∧
        t.place.map = [] ∧ t.place.position = none ∧ t.motion.refValid = false ∧ t.motion.lastDir = none ∧
        t.power.portWait = 2)

/-- R59: after every kind of reset the Report Queue holds the reset's report alone, not LOST, at index 0, with the overflow
count 0 and the last-pushed record the reset's, its cause 50h after POR, 51h after RST/, 52h after DEVICE RESET and 53h
after a wake; REPORT PENDING is 1, and IRQ/ stays released with its enables 0. A release of RST/ ends the period in which
`HeldInReset` holds. -/
def Obligations.ResetReports : Prop :=
  ∀ (i : Instr) (c : Cause) (s : State), HeldInReset s → resetCause s i = some c →
    ∃ t r, exec i s = .next t ∧ t.reports = { stored := [r], readIndex := 0, overflow := 0, lastCause := c, lastTag := 0 } ∧
      r.cause = c ∧ r.lost = false ∧ r.tag = 0 ∧ r.dataPending = false ∧ reportPending t = true ∧ irqActive t = false ∧
      t.host.intEnable = 0 ∧
      causeCode c = (match i with | .powerOn _ => 0x50 | .rstRelease => 0x51 | .deviceReset => 0x52 | _ => 0x53)

/-- R180: no step, a millisecond of the time base among them, changes what RST/ holds while it stays low: no order is
accepted or departs, no step is issued, no sleep is entered, no bank or interrupt enable changes. That the assertion
itself clears these, and not the release, is log 25. -/
def Obligations.HeldWhileRstLow : Prop :=
  ∀ s t : State, HeldInReset s → step s = .next t → HeldInReset t

end
end

