-- ==== Sys2Proof/Laws/Controller.lean ====
section
/-! SUPPORT. What the controller's own functions do to the INHIBITED state: none enters it and none but a lift leaves it
(R84, R85). -/

namespace Sys2Proof.Machine

/-- The controller is not INHIBITED. -/
def Motion.Runs (m : Motion) : Prop := m.state ≠ .inhibited

@[simp] theorem rested_runs (m : Motion) : m.rested.Runs := by simp [Motion.rested, Motion.Runs]

@[simp] theorem restNow_runs (m : Motion) : (restNow m).motion.Runs := by
  unfold restNow; split <;> simp [Motion.rested, Motion.Runs]

@[simp] theorem beginStop_runs (c : Setup) (m : Motion) : (beginStop c m).motion.Runs := by
  unfold beginStop
  dsimp only
  split
  · exact restNow_runs _
  · simp [Motion.Runs]

theorem planStop_runs (c : Setup) {m : Motion} (h : m.Runs) : (planStop c m).1.Runs := by
  unfold planStop
  split
  · exact h
  · split
    · simp [Motion.Runs]
    · exact h

theorem riseStep_runs (c : Setup) {m : Motion} (h : m.Runs) : (riseStep c m).1.Runs := by
  unfold riseStep
  dsimp only
  repeat' split
  all_goals first | exact h | simp [Motion.Runs]

theorem fallStep_runs (c : Setup) {m : Motion} (h : m.Runs) : (fallStep c m).1.Runs := by
  unfold fallStep
  dsimp only
  repeat' split
  all_goals first | exact h | simp [Motion.Runs]

theorem brakeStep_runs (c : Setup) {m : Motion} (h : m.Runs) : (brakeStep c m).1.Runs := by
  unfold brakeStep
  dsimp only
  split <;> exact h

theorem rampStep_runs (c : Setup) {m : Motion} (h : m.Runs) : (rampStep c m).motion.Runs := by
  unfold rampStep
  dsimp only
  split
  · exact brakeStep_runs c h
  · apply planStop_runs
    split
    · exact riseStep_runs c h
    · exact fallStep_runs c h
    · exact h

theorem closeStep_runs (c : Setup) (pre : List MotionEvent) (n : Nat) {o : Ctl} (h : o.motion.Runs) :
    (closeStep c pre n o).motion.Runs := by
  unfold closeStep
  split <;> exact h

theorem endStep_runs (c : Setup) (pre : List MotionEvent) {r : Ramp} (h : r.motion.Runs) :
    (endStep c pre r).motion.Runs := by
  unfold endStep
  apply closeStep_runs
  split
  · exact restNow_runs _
  · exact h

theorem stopStep_runs (c : Setup) (pre : List MotionEvent) (m : Motion) : (stopStep c pre m).motion.Runs :=
  closeStep_runs _ _ _ (beginStop_runs c m)

theorem seekStep_runs (e : CtlEnv) {m : Motion} (h : m.Runs) : (seekStep e m).motion.Runs := by
  unfold seekStep
  repeat' split
  · exact stopStep_runs _ _ _
  · exact stopStep_runs _ _ _
  · exact stopStep_runs _ _ _
  · exact endStep_runs _ _ (rampStep_runs _ h)

theorem boundaryStep_runs (e : CtlEnv) (r : BoundaryReason) {m : Motion} (h : m.Runs) :
    (boundaryStep e r m).motion.Runs := by
  unfold boundaryStep
  dsimp only
  split
  · exact endStep_runs _ _ (r := { rampStep e.setup m with motion := _ }) (rampStep_runs e.setup h)
  · exact stopStep_runs _ _ _

theorem stepOnce_runs (e : CtlEnv) {m : Motion} (h : m.Runs) : (stepOnce e m).motion.Runs := by
  have hc : (countStep m).Runs := h
  unfold stepOnce
  dsimp only
  split
  · exact seekStep_runs e hc
  · exact seekStep_runs e hc
  · exact endStep_runs _ _ (rampStep_runs _ hc)
  · split
    · exact endStep_runs _ _ (rampStep_runs _ hc)
    · exact boundaryStep_runs e _ hc

theorem startMove_runs (e : CtlEnv) (m : Motion) : (startMove e m).motion.Runs := by
  unfold startMove
  split
  · simp [Motion.rested, Motion.Runs]
  · simp only [Motion.Runs]
    split <;> simp

theorem launch_runs (e : CtlEnv) (m : Motion) (d : Dir) : (launch e m d).motion.Runs := by
  unfold launch
  split
  · simp [Motion.Runs]
  · exact startMove_runs _ _

@[simp] theorem stopAtRest_runs (m : Motion) (held : Bool) : (stopAtRest m held).motion.Runs := by
  simp [stopAtRest, Motion.Runs]

theorem goOn_runs (e : CtlEnv) {m : Motion} (h : m.Runs) : (goOn e m).motion.Runs := by
  unfold goOn
  repeat' split
  all_goals first | exact h | exact launch_runs _ _ _ | exact stopAtRest_runs _ _

@[simp] theorem opening_state (m : Motion) (q : Request) : (m.opening q).state = m.state := rfl

@[simp] theorem dwellServes_state (e : CtlEnv) (m : Motion) (q : Request) : (dwellServes e m q).state = m.state := by
  cases q <;> rfl

theorem requestDwell_runs (e : CtlEnv) (q : Request) {m : Motion} (h : m.Runs) : (requestDwell e m q).motion.Runs := by
  unfold requestDwell
  repeat' split
  · exact stopAtRest_runs _ _
  · exact goOn_runs _ (by simp [Motion.Runs])
  · simpa [Motion.Runs] using h

theorem waitOver_runs (e : CtlEnv) {m : Motion} (h : m.Runs) : (waitOver e m).motion.Runs := by
  unfold waitOver
  split
  · exact startMove_runs _ _
  · split
    · exact goOn_runs e h
    · exact h

theorem retarget_runs {m : Motion} (q : Request) (h : m.Runs) : (retarget m q).Runs := by
  unfold retarget
  dsimp only
  repeat' split
  all_goals first | exact h | simp [Motion.Runs]

theorem requestMove_runs (e : CtlEnv) (n : Nat) {m : Motion} (q : Request) (h : m.Runs) :
    (requestMove e n m q).motion.Runs := by
  have ho : (m.opening q).Runs := h
  unfold requestMove
  repeat' split
  all_goals first
    | exact stopAtRest_runs _ _
    | exact goOn_runs _ ho
    | exact requestDwell_runs e q h
    | exact beginStop_runs _ _
    | exact retarget_runs q h
    | exact ho

theorem requestStop_runs (c : Setup) {m : Motion} (h : m.Runs) : (requestStop c m).motion.Runs := by
  unfold requestStop
  repeat' split
  all_goals first
    | exact stopAtRest_runs _ _
    | exact beginStop_runs _ _
    | exact h

/-- An action of the controller that leaves an INHIBITED controller as it is and inhibits none. -/
def CtlKeeps (m : Motion) (o : Ctl) : Prop := (m.Runs → o.motion.Runs) ∧ (¬ m.Runs → Still m → o.motion = m)

theorem not_runs {m : Motion} : ¬ m.Runs ↔ m.state = .inhibited := by simp [Motion.Runs]

theorem requestMove_keeps (e : CtlEnv) (n : Nat) (m : Motion) (q : Request) : CtlKeeps m (requestMove e n m q) :=
  ⟨requestMove_runs e n q, fun h _ => by rw [not_runs] at h; simp [requestMove, h]⟩

theorem requestStop_keeps (c : Setup) (m : Motion) : CtlKeeps m (requestStop c m) :=
  ⟨requestStop_runs c, fun h _ => by rw [not_runs] at h; simp [requestStop, h]⟩

theorem goOn_keeps (e : CtlEnv) (m : Motion) : CtlKeeps m (goOn e m) :=
  ⟨goOn_runs e, fun h hs => by
    rw [not_runs] at h
    simp [goOn, (hs h).1]⟩

theorem waitOver_keeps (e : CtlEnv) (m : Motion) : CtlKeeps m (waitOver e m) :=
  ⟨waitOver_runs e, fun h hs => by
    rw [not_runs] at h
    simp [waitOver, h, (hs h).2]⟩

theorem stopAtRest_keeps {m : Motion} {held : Bool} (h : m.waitingAtRest = true) : CtlKeeps m (stopAtRest m held) :=
  ⟨fun _ => stopAtRest_runs _ _, fun hn hs => by
    rw [not_runs] at hn
    simp [Motion.waitingAtRest, hn, (hs hn).2] at h⟩

theorem moving_runs {m : Motion} (h : m.moving = true) : m.Runs := by
  intro hs; simp [Motion.moving, hs] at h

theorem stepOnce_keeps (e : CtlEnv) {m : Motion} (h : m.moving = true) : CtlKeeps m (stepOnce e m) :=
  ⟨stepOnce_runs e, fun hn _ => absurd (moving_runs h) hn⟩

theorem holdMotion_runs {m : Motion} (h : m.Runs) : (holdMotion false m).motion.Runs := by
  have : m.state ≠ .inhibited := h
  simp only [holdMotion, stopAtRest]
  repeat' split
  all_goals simp_all [Motion.Runs]

theorem holdMotion_keeps {m : Motion} (h : m.moving = true) : CtlKeeps m (holdMotion false m) :=
  ⟨holdMotion_runs, fun hn _ => absurd (moving_runs h) hn⟩

theorem holdMotion_inhibits (m : Motion) : (holdMotion true m).motion.state = .inhibited := by
  simp only [holdMotion]
  repeat' split
  all_goals simp_all

theorem holdMotion_still (m : Motion) : Still (holdMotion true m).motion := by
  intro _
  simp only [holdMotion, stopAtRest]
  repeat' split
  all_goals simp_all [Motion.moving]

end Sys2Proof.Machine
end

