-- ==== Sys2Proof/Laws/Map.lean ====
section
/-! SUPPORT. The Locator Map's operations keep its order, its size and its use stamps (R113, R115). -/

namespace Sys2Proof.Machine

theorem entryBefore_iff (d e : MapEntry) : entryBefore d e = true ↔
    (d.origin.toInt < e.origin.toInt ∨ (d.origin.toInt = e.origin.toInt ∧ d.part.toNat ≤ e.part.toNat)) := by
  simp [entryBefore]

/-- R113 step 1: an entry does not stand against another of its partition. -/
def Agrees (d e : MapEntry) : Prop :=
  d.part = e.part → (d.number.toNat < e.number.toNat ∧ d.origin.toInt < e.origin.toInt) ∨
    (e.number.toNat < d.number.toNat ∧ e.origin.toInt < d.origin.toInt)

theorem before_of_entryBefore {d e : MapEntry} (hd : Agrees d e) (hb : entryBefore d e = true) : MapBefore d e := by
  rw [entryBefore_iff] at hb
  unfold Agrees at hd
  refine ⟨?_, fun hp => ?_⟩
  · by_cases hp : d.part = e.part
    · rcases hd hp with h | h <;> omega
    · have : d.part.toNat ≠ e.part.toNat := fun h => hp (BitVec.eq_of_toNat_eq h)
      omega
  · rcases hd hp with h | h <;> omega

theorem before_of_not {d e : MapEntry} (hd : Agrees d e) (hb : ¬ entryBefore d e = true) : MapBefore e d := by
  rw [entryBefore_iff] at hb
  unfold Agrees at hd
  refine ⟨?_, fun hp => ?_⟩
  · by_cases hp : d.part = e.part
    · rcases hd hp with h | h <;> omega
    · have : d.part.toNat ≠ e.part.toNat := fun h => hp (BitVec.eq_of_toNat_eq h)
      omega
  · rcases hd hp.symm with h | h <;> omega

theorem mem_placeEntry {e x : MapEntry} {map : List MapEntry} : x ∈ placeEntry e map ↔ x = e ∨ x ∈ map := by
  induction map with
  | nil => simp [placeEntry]
  | cons d rest ih =>
    unfold placeEntry
    split
    · simp only [List.mem_cons, ih]
      exact or_left_comm
    · simp only [List.mem_cons]

theorem length_placeEntry (e : MapEntry) (map : List MapEntry) : (placeEntry e map).length = map.length + 1 := by
  induction map with
  | nil => rfl
  | cons d rest ih => unfold placeEntry; split <;> simp [ih]

/-- The first of two entries in order with an entry between is before it, ticks only. -/
theorem pairwise_placeEntry {e : MapEntry} {map : List MapEntry} (ho : map.Pairwise MapBefore)
    (ha : ∀ d ∈ map, Agrees d e) : (placeEntry e map).Pairwise MapBefore := by
  induction map with
  | nil => simp [placeEntry]
  | cons d rest ih =>
    rw [List.pairwise_cons] at ho
    unfold placeEntry
    split
    · rename_i hb
      rw [List.pairwise_cons]
      refine ⟨fun x hx => ?_, ih ho.2 fun x hx => ha x (List.mem_cons_of_mem _ hx)⟩
      rcases mem_placeEntry.1 hx with rfl | hx
      · exact before_of_entryBefore (ha d (List.mem_cons_self ..)) hb
      · exact ho.1 x hx
    · rename_i hb
      have hed := before_of_not (ha d (List.mem_cons_self ..)) hb
      rw [List.pairwise_cons]
      refine ⟨fun x hx => ?_, List.pairwise_cons.2 ho⟩
      rcases List.mem_cons.1 hx with rfl | hx
      · exact hed
      · have hdx := ho.1 x hx
        have hax := ha x (List.mem_cons_of_mem _ hx)
        unfold Agrees at hax
        unfold MapBefore at *
        refine ⟨by omega, fun hp => ?_⟩
        rcases hax hp.symm with h | h <;> omega

theorem pairwise_stamp_placeEntry {e : MapEntry} {map : List MapEntry} (hs : map.Pairwise (fun d x => d.stamp ≠ x.stamp))
    (he : ∀ d ∈ map, d.stamp < e.stamp) : (placeEntry e map).Pairwise (fun d x => d.stamp ≠ x.stamp) := by
  induction map with
  | nil => simp [placeEntry]
  | cons d rest ih =>
    rw [List.pairwise_cons] at hs
    have hd := he d (List.mem_cons_self ..)
    unfold placeEntry
    split
    · rw [List.pairwise_cons]
      refine ⟨fun x hx => ?_, ih hs.2 fun x hx => he x (List.mem_cons_of_mem _ hx)⟩
      rcases mem_placeEntry.1 hx with rfl | hx
      · omega
      · exact hs.1 x hx
    · rw [List.pairwise_cons]
      refine ⟨fun x hx => ?_, List.pairwise_cons.2 hs⟩
      have := he x hx; omega

theorem foldl_min_le (l : List Nat) (x : Nat) : l.foldl min x ≤ x ∧ (l.foldl min x = x ∨ l.foldl min x ∈ l) := by
  induction l generalizing x with
  | nil => simp
  | cons y rest ih =>
    obtain ⟨h1, h2⟩ := ih (min x y)
    refine ⟨by simp only [List.foldl_cons]; omega, ?_⟩
    simp only [List.foldl_cons, List.mem_cons]
    rcases h2 with h2 | h2
    · rw [h2]; omega
    · exact Or.inr (Or.inr h2)

theorem oldestStamp_mem {d : MapEntry} {rest : List MapEntry} : ∃ x ∈ d :: rest, x.stamp = oldestStamp (d :: rest) := by
  unfold oldestStamp
  simp only [List.map_cons]
  rcases (foldl_min_le (rest.map MapEntry.stamp) d.stamp).2 with h | h
  · exact ⟨d, List.mem_cons_self .., h.symm⟩
  · obtain ⟨x, hx, hxs⟩ := List.mem_map.1 h
    exact ⟨x, List.mem_cons_of_mem _ hx, hxs⟩

theorem length_evict (map : List MapEntry) (h : map.length ≤ Config.mapPlaces) :
    (evict map).length < Config.mapPlaces := by
  unfold evict
  split
  · cases map with
    | nil => simp [Config.mapPlaces]
    | cons d rest =>
      obtain ⟨x, hx, hxs⟩ := oldestStamp_mem (d := d) (rest := rest)
      refine Nat.lt_of_lt_of_le ?_ h
      rw [List.length_filter_lt_length_iff_exists]
      exact ⟨x, hx, by simp [hxs]⟩
  · omega

theorem evict_sublist (map : List MapEntry) : (evict map).Sublist map := by
  unfold evict; split
  · exact List.filter_sublist
  · exact List.Sublist.refl _

theorem mapSound_sublist {p : Place} {map : List MapEntry} (h : MapSound p) (hs : map.Sublist p.map) :
    MapSound { p with map := map } := by
  obtain ⟨h1, h2, h3, h4⟩ := h
  exact ⟨Nat.le_trans hs.length_le h1, h2.sublist hs, h3.sublist hs, fun d hd => h4 d (hs.subset hd)⟩

/-- R113: an insertion keeps the map sound. -/
theorem mapInsert_sound {q : Place} (h : MapSound q) (p : PartNo) (n : BlockNo) {t : Int} (src : MapSource)
    (lo : -8388608 ≤ t) (hi : t < 8388608) : MapSound (mapInsert p n t src q) := by
  obtain ⟨h1, h2, h3, h4⟩ := h
  have hsub : (evict (q.map.filter fun d => !entryConflicts p n t d)).Sublist q.map :=
    (evict_sublist _).trans List.filter_sublist
  have hlen := length_evict (q.map.filter fun d => !entryConflicts p n t d)
    (Nat.le_trans (List.filter_sublist.length_le) h1)
  have ht : (BitVec.ofInt 24 t).toInt = t := by
    rw [BitVec.toInt_ofInt]; exact Int.bmod_eq_of_le (by omega) (by omega)
  refine ⟨by simp only [mapInsert, length_placeEntry]; omega, ?_, ?_, ?_⟩
  · apply pairwise_placeEntry (h2.sublist hsub)
    intro d hd
    have hd' := (List.mem_filter.1 ((evict_sublist _).subset hd)).2
    simp only [entryConflicts, Bool.not_eq_true', Bool.and_eq_false_imp, beq_iff_eq, Bool.or_eq_false_iff,
      Bool.and_eq_false_imp, decide_eq_true_eq, decide_eq_false_iff_not, beq_eq_false_iff_ne, ne_eq] at hd'
    intro hp
    obtain ⟨⟨hn, hl⟩, hg⟩ := hd' hp
    have hn' : d.number.toNat ≠ n.toNat := fun e => hn (BitVec.eq_of_toNat_eq e)
    simp only [ht]
    rcases Nat.lt_or_gt_of_ne hn' with hlt | hgt
    · left; exact ⟨hlt, by have := hl hlt; omega⟩
    · right; exact ⟨hgt, by have := hg hgt; omega⟩
  · exact pairwise_stamp_placeEntry (h3.sublist hsub) fun d hd => h4 d (hsub.subset hd)
  · intro d hd
    rcases mem_placeEntry.1 hd with rfl | hd
    · simp [mapInsert]
    · have := h4 d (hsub.subset hd); simp only [mapInsert]; omega

theorem mapTruncate_sound {q : Place} (h : MapSound q) (p : PartNo) (n : BlockNo) : MapSound (mapTruncate p n q) :=
  mapSound_sublist h List.filter_sublist

theorem mapClear_sound {q : Place} (h : MapSound q) : MapSound (mapClear q) := mapSound_sublist h (List.nil_sublist _)

/-- Two entries of one partition and number are one entry. -/
theorem mapTouch_sound {q : Place} (h : MapSound q) (p : PartNo) (n : BlockNo) : MapSound (mapTouch p n q) := by
  obtain ⟨h1, h2, h3, h4⟩ := h
  refine ⟨by simpa [mapTouch] using h1, ?_, ?_, ?_⟩
  · simp only [mapTouch, List.pairwise_map]
    refine h2.imp ?_
    intro a b hab
    unfold MapBefore at *
    split <;> split <;> exact hab
  · simp only [mapTouch, List.pairwise_map]
    rw [List.pairwise_iff_forall_sublist] at *
    intro a b hab
    have hs := h3 hab
    have ho := h2 hab
    have ha := h4 a (hab.subset (by simp))
    have hb := h4 b (hab.subset (by simp))
    unfold MapBefore at ho
    split <;> split
    · rename_i ca cb
      simp only [Bool.and_eq_true, beq_iff_eq] at ca cb
      have := ho.2 (ca.1.trans cb.1.symm)
      rw [ca.2, cb.2] at this
      omega
    · simp; omega
    · simp; omega
    · exact hs
  · intro d hd
    simp only [mapTouch, List.mem_map] at hd
    obtain ⟨x, hx, rfl⟩ := hd
    have := h4 x hx
    simp only [mapTouch]
    split <;> simp
    omega

end Sys2Proof.Machine
end

