-- ==== Sys2Proof/Laws/Sound.lean ====
section
/-! SUPPORT. What the acts inside a command keep, one lemma per operation: the queue of commands, the Host Port's
registers, the setup and the link stand as they are, and a sound state stays sound. -/

namespace Sys2Proof.Machine

/-- Sound but for the inhibit, which an act that changes faults restores last. -/
structure Core (s : State) : Prop where
  orders : OrdersFit s.seq
  reports : ReportsFit s.reports
  map : MapSound s.place
  anchored : Anchored s
  faults : FaultsRecorded s.health
  gate : GateUsed s.framer
  setup : SetupInRange s.setup
  still : Still s.motion

theorem Sound.core {s : State} (h : Sound s) : Core s := ⟨h.1, h.2, h.3, h.4, h.5, h.6, h.7, h.8⟩

theorem Core.sound {s : State} (h : Core s) (hi : InhibitHolds s) : Sound s :=
  ⟨h.1, h.2, h.3, h.4, h.5, h.6, h.7, h.8, hi⟩

/-- What a command's acts leave alone outside the host's, the supervisor's and the model's own registers. -/
structure Owned (s t : State) : Prop where
  pending : t.pending = s.pending
  host : t.host = s.host
  setup : t.setup = s.setup
  link : t.link = s.link
  mask : t.health.mask = s.health.mask
  control : t.health.control = s.health.control
  powerOnFlag : t.health.powerOnFlag = s.health.powerOnFlag

/-- What a part leaves alone inside a command: the levels of the inputs too. -/
structure Same (s t : State) : Prop where
  pending : t.pending = s.pending
  host : t.host = s.host
  setup : t.setup = s.setup
  link : t.link = s.link
  mask : t.health.mask = s.health.mask
  control : t.health.control = s.health.control
  powerOnFlag : t.health.powerOnFlag = s.health.powerOnFlag
  inputs : t.inputs = s.inputs

theorem Same.kept {s t : State} (h : Same s t) : Owned s t := ⟨h.1, h.2, h.3, h.4, h.5, h.6, h.7⟩

/-- An act inside a command. -/
structure Inner (s t : State) : Prop where
  same : Same s t
  sound : Sound s → Sound t

/-- An act that may bring levels of the inputs. -/
structure Act (s t : State) : Prop where
  same : Owned s t
  sound : Sound s → Sound t

theorem Inner.act {s t : State} (h : Inner s t) : Act s t := ⟨h.same.kept, h.sound⟩

theorem Same.refl (s : State) : Same s s := ⟨rfl, rfl, rfl, rfl, rfl, rfl, rfl, rfl⟩

theorem Same.trans {s t u : State} (h : Same s t) (k : Same t u) : Same s u :=
  ⟨k.1.trans h.1, k.2.trans h.2, k.3.trans h.3, k.4.trans h.4, k.5.trans h.5, k.6.trans h.6, k.7.trans h.7,
    k.8.trans h.8⟩

theorem Owned.trans {s t u : State} (h : Owned s t) (k : Owned t u) : Owned s u :=
  ⟨k.1.trans h.1, k.2.trans h.2, k.3.trans h.3, k.4.trans h.4, k.5.trans h.5, k.6.trans h.6, k.7.trans h.7⟩

/-- Acts in a row, the last first. -/
theorem Act.after {s t u : State} (k : Act t u) (h : Act s t) : Act s u :=
  ⟨h.same.trans k.same, fun hs => k.sound (h.sound hs)⟩

theorem Inner.refl (s : State) : Inner s s := ⟨.refl s, id⟩

/-- Acts in a row, the last first. -/
theorem Inner.after {s t u : State} (k : Inner t u) (h : Inner s t) : Inner s u :=
  ⟨h.same.trans k.same, fun hs => k.sound (h.sound hs)⟩

/-! ### Changes of one part of the state -/

theorem Inner.setSeq {s t : State} {q : Sequencer} (h : Inner s t) (hq : OrdersFit t.seq → OrdersFit q) :
    Inner s { t with seq := q } :=
  Inner.after (t := t) ⟨⟨rfl, rfl, rfl, rfl, rfl, rfl, rfl, rfl⟩, fun k => ⟨hq k.1, k.2, k.3, k.4, k.5, k.6, k.7, k.8, k.9⟩⟩ h

theorem Inner.setReports {s t : State} {q : Reports} (h : Inner s t) (hq : ReportsFit t.reports → ReportsFit q) :
    Inner s { t with reports := q } :=
  Inner.after (t := t) ⟨⟨rfl, rfl, rfl, rfl, rfl, rfl, rfl, rfl⟩, fun k => ⟨k.1, hq k.2, k.3, k.4, k.5, k.6, k.7, k.8, k.9⟩⟩ h

theorem Inner.setBanks {s t : State} {k : Banks} (h : Inner s t) : Inner s { t with banks := k } :=
  Inner.after (t := t) ⟨⟨rfl, rfl, rfl, rfl, rfl, rfl, rfl, rfl⟩, fun k => ⟨k.1, k.2, k.3, k.4, k.5, k.6, k.7, k.8, k.9⟩⟩ h

theorem Inner.setEvents {s t : State} {l : List MotionEvent} (h : Inner s t) : Inner s { t with events := l } :=
  Inner.after (t := t) ⟨⟨rfl, rfl, rfl, rfl, rfl, rfl, rfl, rfl⟩, fun k => ⟨k.1, k.2, k.3, k.4, k.5, k.6, k.7, k.8, k.9⟩⟩ h

theorem setInputs_act (s : State) (x : Inputs) : Act s { s with inputs := x } :=
  ⟨⟨rfl, rfl, rfl, rfl, rfl, rfl, rfl⟩, fun k => ⟨k.1, k.2, k.3, k.4, k.5, k.6, k.7, k.8, k.9⟩⟩

theorem Inner.setPower {s t : State} {x : Power} (h : Inner s t) : Inner s { t with power := x } :=
  Inner.after (t := t) ⟨⟨rfl, rfl, rfl, rfl, rfl, rfl, rfl, rfl⟩, fun k => ⟨k.1, k.2, k.3, k.4, k.5, k.6, k.7, k.8, k.9⟩⟩ h

theorem Inner.setFramer {s t : State} {f : Framer} (h : Inner s t) (hf : GateUsed t.framer → GateUsed f) :
    Inner s { t with framer := f } :=
  Inner.after (t := t) ⟨⟨rfl, rfl, rfl, rfl, rfl, rfl, rfl, rfl⟩, fun k => ⟨k.1, k.2, k.3, k.4, k.5, hf k.6, k.7, k.8, k.9⟩⟩ h

theorem Inner.setPlace {s t : State} {p : Place} (h : Inner s t) (hm : MapSound t.place → MapSound p)
    (hp : p.position = none ∨ p.position = t.place.position) : Inner s { t with place := p } :=
  Inner.after (t := t) ⟨⟨rfl, rfl, rfl, rfl, rfl, rfl, rfl, rfl⟩, fun k => ⟨k.1, k.2, hm k.3, fun hs => by
    rcases hp with hp | hp
    · simp [hp] at hs
    · exact k.4 (hp ▸ hs), k.5, k.6, k.7, k.8, k.9⟩⟩ h

theorem mapSound_of_map {p q : Place} (hm : q.map = p.map) (hc : q.mapClock = p.mapClock) (h : MapSound p) :
    MapSound q := by
  unfold MapSound at *; rw [hm, hc]; exact h

theorem Inner.setMotion {s t : State} {m : Motion} (h : Inner s t) (hr : m.refValid = t.motion.refValid)
    (hs : m.state = .inhibited ↔ t.motion.state = .inhibited) (hq : Still t.motion → Still m) :
    Inner s { t with motion := m } :=
  Inner.after (t := t) ⟨⟨rfl, rfl, rfl, rfl, rfl, rfl, rfl, rfl⟩, fun k => ⟨k.1, k.2, k.3, fun hp => hr.trans (k.4 hp), k.5, k.6, k.7, hq k.8,
    hs.trans k.9⟩⟩ h

/-! ### Report Queue -/

theorem markLost_length (l : List Report) : (markLost l).length = l.length := by
  induction l with
  | nil => rfl
  | cons r rest ih => cases rest <;> simp_all [markLost]

theorem push_fits {q : Reports} (r : Report) (h : ReportsFit q) : ReportsFit (q.push r) := by
  unfold Reports.push ReportsFit at *
  split
  · refine ⟨by simp only [List.length_append, List.length_cons, List.length_nil]; omega, ?_⟩
    dsimp only; split <;> omega
  · exact ⟨by simp only [markLost_length]; exact h.1, h.2⟩

theorem acknowledge_fits {q : Reports} (h : ReportsFit q) : ReportsFit q.acknowledge := by
  unfold Reports.acknowledge ReportsFit at *
  split
  · exact h
  · rename_i r rest hq
    rw [hq] at h
    simp only [List.length_cons] at h
    refine ⟨?_, ?_⟩ <;> dsimp only <;> omega

theorem advance_fits {q : Reports} (h : ReportsFit q) : ReportsFit q.advance := by
  unfold Reports.advance ReportsFit at *
  split
  · exact h
  · exact ⟨h.1, by dsimp only; omega⟩

/-! ### Ops.lean -/

theorem pushReport_inner (r : Report) (s : State) : Inner s (pushReport r s) :=
  (Inner.refl s).setReports (push_fits r)

theorem pushUnsolicited_inner (cause : Cause) (s : State) : Inner s (pushUnsolicited cause s) := by
  unfold pushUnsolicited
  repeat' first
    | with_reducible exact .refl _
    | with_reducible refine (pushReport_inner _ _).after ?_

theorem pushBefore_inner (after : State → State) (cause : Cause) (s : State) : Inner s (pushBefore after cause s) :=
  pushReport_inner _ s

theorem reflag_inner (after : State → State) (kept : Nat) (s : State) : Inner s (reflag after kept s) := by
  unfold reflag
  split
  · refine (Inner.refl s).setReports fun h => ⟨?_, h.2⟩
    have hk : (s.reports.unflag kept).stored.length = s.reports.stored.length := by
      simp only [Reports.unflag, List.length_append, List.length_take, List.length_map, List.length_drop]
      omega
    exact hk ▸ h.1
  · exact Inner.refl s

theorem emptyReports_inner (s : State) : Inner s (emptyReports s) :=
  (Inner.refl s).setReports fun _ => ⟨Nat.zero_le _, Nat.zero_le _⟩

theorem discardWriteData_inner (s : State) : Inner s (discardWriteData s) := by
  unfold discardWriteData
  repeat' first
    | with_reducible exact .refl _
    | with_reducible refine Inner.setBanks ?_

theorem discard_inner (s : State) : Inner s (discard s) := by
  unfold discard
  repeat' first
    | with_reducible exact .refl _
    | with_reducible refine (discardWriteData_inner _).after ?_
    | with_reducible refine Inner.setSeq ?_ ?_
    | exact fun h => ⟨h.1, h.2⟩
    | exact fun h => ⟨Nat.zero_le _, h.2⟩

theorem setPosition_inner (p : Option Position) (s : State) : Inner s (setPosition p s) := by
  refine ⟨⟨rfl, rfl, rfl, rfl, rfl, rfl, rfl, rfl⟩, fun k => ⟨k.1, k.2, mapSound_of_map rfl rfl k.3, fun hs => ?_, k.5, k.6, k.7, k.8, k.9⟩⟩
  simp only [setPosition] at hs ⊢
  split at hs
  · assumption
  · simp at hs

theorem loseReference_core {s : State} (k : Core s) : Core (loseReference s) :=
  ⟨k.1, k.2, mapSound_of_map rfl rfl k.3, fun hs => by simp [loseReference] at hs, k.5, k.6, k.7, k.8⟩

theorem loseReference_inner (s : State) : Inner s (loseReference s) :=
  ⟨⟨rfl, rfl, rfl, rfl, rfl, rfl, rfl, rfl⟩, fun k => (loseReference_core k.core).sound k.9⟩

/-- An action of the controller taken in: an INHIBITED controller stays as it is, and none becomes INHIBITED. -/
theorem handOver_inner {o : Ctl} {s : State} (ho : CtlKeeps s.motion o) : Inner s (handOver o s) := by
  refine ⟨⟨rfl, rfl, rfl, rfl, rfl, rfl, rfl, rfl⟩, fun k => ⟨k.1, k.2, mapSound_of_map rfl rfl k.3, fun hs => ?_, k.5, k.6, k.7, ?_, ?_⟩⟩
  · simp only [handOver] at hs ⊢
    split at hs
    · assumption
    · simp at hs
  · by_cases hr : s.motion.Runs
    · exact fun h => absurd h (ho.1 hr)
    · show Still o.motion
      rw [ho.2 hr k.8]; exact k.8
  · by_cases hr : s.motion.Runs
    · have := ho.1 hr
      have hi := k.9
      unfold InhibitHolds at *
      simp only [handOver]
      exact ⟨fun h => absurd h this, fun h => absurd (hi.2 h) hr⟩
    · have := ho.2 hr k.8
      have hi := k.9
      unfold InhibitHolds at *
      simp only [handOver, this]; exact hi

theorem ask_inner (q : Request) (s : State) : Inner s (ask q s) := by
  unfold ask
  split
  · exact (handOver_inner (requestMove_keeps _ _ _ _)).after ((Inner.refl s).setPower)
  · exact handOver_inner (requestMove_keeps _ _ _ _)

theorem askStop_inner (s : State) : Inner s (askStop s) := handOver_inner (requestStop_keeps _ _)

theorem dropGate_core {s : State} (k : Core s) : Core (dropGate s) :=
  ⟨k.1, k.2, k.3, k.4, k.5, fun h => by simp [dropGate] at h, k.7, k.8⟩

theorem dropGate_inner (s : State) : Inner s (dropGate s) :=
  ⟨⟨rfl, rfl, rfl, rfl, rfl, rfl, rfl, rfl⟩, fun k => (dropGate_core k.core).sound k.9⟩

theorem cutCapture_same (s : State) : Same s (cutCapture s) := by
  unfold cutCapture; split <;> exact ⟨rfl, rfl, rfl, rfl, rfl, rfl, rfl, rfl⟩

theorem cutCapture_core {s : State} (k : Core s) : Core (cutCapture s) := by
  unfold cutCapture; split
  · exact k
  · exact ⟨k.1, k.2, k.3, k.4, k.5, k.6, k.7, k.8⟩

theorem cutCapture_motion (s : State) : (cutCapture s).motion = s.motion := by unfold cutCapture; split <;> rfl

theorem cutCapture_health (s : State) : (cutCapture s).health = s.health := by unfold cutCapture; split <;> rfl

theorem cutCapture_inner (s : State) : Inner s (cutCapture s) :=
  ⟨cutCapture_same s, fun k => (cutCapture_core k.core).sound (by
    have := k.9
    unfold InhibitHolds at *
    rw [cutCapture_motion, cutCapture_health]; exact this)⟩

theorem holdMotion_still_false {m : Motion} (h : Still m) : Still (holdMotion false m).motion := by
  intro hs
  have hm : m.state = .inhibited := by
    by_cases hr : m.state = .inhibited
    · exact hr
    · exact absurd hs (holdMotion_runs hr)
  simp [holdMotion, hm, Motion.moving, (h hm).1]

/-- R84: a hold keeps all but the inhibit, which `inhibitController` makes hold. -/
theorem hold_core (inhibit : Bool) {s : State} (k : Core s) : Core (hold inhibit s) := by
  have h1 : Core (handOver (holdMotion inhibit s.motion) s) := by
    refine ⟨k.1, k.2, mapSound_of_map rfl rfl k.3, fun hs => ?_, k.5, k.6, k.7, ?_⟩
    · simp only [handOver] at hs ⊢
      split at hs
      · assumption
      · simp at hs
    · cases inhibit
      · exact holdMotion_still_false k.8
      · exact holdMotion_still _
  unfold hold
  dsimp only
  split
  · exact cutCapture_core (dropGate_core h1)
  · exact h1

theorem hold_same (inhibit : Bool) (s : State) : Same s (hold inhibit s) := by
  unfold hold
  dsimp only
  split
  · exact Same.trans (t := dropGate (handOver (holdMotion inhibit s.motion) s)) ⟨rfl, rfl, rfl, rfl, rfl, rfl, rfl, rfl⟩ (cutCapture_same _)
  · exact ⟨rfl, rfl, rfl, rfl, rfl, rfl, rfl, rfl⟩

theorem hold_health (inhibit : Bool) (s : State) : (hold inhibit s).health = s.health := by
  unfold hold
  dsimp only
  split
  · rw [cutCapture_health]; rfl
  · rfl

theorem hold_motion (inhibit : Bool) (s : State) : (hold inhibit s).motion = (holdMotion inhibit s.motion).motion := by
  unfold hold
  dsimp only
  split
  · rw [cutCapture_motion]; rfl
  · rfl

theorem hold_inner {s : State} (h : s.motion.moving = true) : Inner s (hold false s) :=
  ⟨hold_same _ _, fun k => (hold_core false k.core).sound (by
    have hi := k.9
    have hr := moving_runs h
    have := holdMotion_runs hr
    unfold InhibitHolds at *
    rw [hold_health, hold_motion]
    exact ⟨fun h => absurd h this, fun h => absurd (hi.2 h) hr⟩)⟩

theorem onActive_inner (f : Active → Active) (s : State) : Inner s (onActive f s) := by
  unfold onActive
  repeat' first
    | with_reducible exact .refl _
    | with_reducible refine Inner.setSeq ?_ ?_
    | exact fun h => ⟨h.1, h.2⟩

theorem raise_inner (c : Cause) (s : State) : Inner s (raise c s) := by
  unfold raise
  repeat' first
    | with_reducible exact .refl _
    | with_reducible refine (onActive_inner _ _).after ?_

theorem setPhase_inner (phase : Phase) (stage : Stage) (s : State) : Inner s (setPhase phase stage s) := by
  unfold setPhase
  repeat' first
    | with_reducible exact .refl _
    | with_reducible refine (onActive_inner _ _).after ?_

theorem setFinal_inner (p : Option (Option Position)) (s : State) : Inner s (setFinal p s) := by
  unfold setFinal
  repeat' first
    | with_reducible exact .refl _
    | with_reducible refine (onActive_inner _ _).after ?_

/-! ### Ending.lean -/

theorem faultBits_same (s : State) : Same s (faultBits s) := ⟨rfl, rfl, rfl, rfl, rfl, rfl, rfl, rfl⟩

/-- R147, R148: the bits that a judgement leaves are consistent, whatever stood before. -/
theorem faultBits_faults (s : State) : FaultsRecorded (faultBits s).health := by
  constructor
  · simp only [faultBits, presentFor]
    ext i hi; simp
  · simp only [faultBits]
    ext i hi; simp; intro h; simp [h]

theorem faultBits_core {s : State} (k : Core s) : Core (faultBits s) :=
  ⟨k.1, k.2, k.3, k.4, faultBits_faults s, k.6, k.7, k.8⟩

theorem inhibitController_same (s : State) : Same s (inhibitController s) := by
  unfold inhibitController
  split
  · split
    · exact .refl s
    · exact (hold_same true s).trans ⟨rfl, rfl, rfl, rfl, rfl, rfl, rfl, rfl⟩
  · exact ⟨rfl, rfl, rfl, rfl, rfl, rfl, rfl, rfl⟩

/-- R151: the inhibit holds after the controller has been told. -/
theorem inhibitController_sound {s : State} (k : Core s) : Sound (inhibitController s) := by
  unfold inhibitController
  split
  · rename_i hf
    split
    · rename_i hs
      exact k.sound ⟨fun _ => hf, fun _ => hs⟩
    · have hc := hold_core true k
      refine ⟨hc.1, hc.2, hc.3, hc.4, hc.5, hc.6, hc.7, hc.8, ?_⟩
      show (hold true s).motion.state = .inhibited ↔ (hold true s).health.motionFault = true
      rw [hold_health, hold_motion, holdMotion_inhibits]
      exact ⟨fun _ => hf, fun _ => rfl⟩
  · rename_i hf
    refine ⟨k.1, k.2, k.3, fun hs => ?_, k.5, k.6, k.7, ?_, ?_⟩
    · have := k.4 hs
      simp only [liftInhibit]; split <;> exact this
    · intro hs
      simp only [liftInhibit] at hs
      split at hs
      · simp at hs
      · rename_i hn; exact absurd (by simpa using hs) hn
    · refine ⟨fun hs => ?_, fun hs => absurd hs hf⟩
      simp only [liftInhibit] at hs
      split at hs
      · simp at hs
      · rename_i hn; exact absurd (by simpa using hs) hn

theorem inhibitController_inner (s : State) : Inner s (inhibitController s) :=
  ⟨inhibitController_same s, fun k => inhibitController_sound k.core⟩

theorem endCartridge_inner (a : Active) (s : State) : Inner s (endCartridge a s) := by
  unfold endCartridge
  split
  · exact (Inner.refl s).setPlace (mapSound_of_map rfl rfl) (.inr rfl)
  · split
    · exact (loseReference_inner _).after
        ((Inner.refl s).setPlace (fun h => mapSound_of_map (p := mapClear s.place) rfl rfl (mapClear_sound h)) (.inr rfl))
    · exact .refl s

theorem endRequest_inner (s : State) : Inner s (endRequest s) := by
  unfold endRequest
  split
  · rename_i hw; exact handOver_inner (stopAtRest_keeps hw)
  · exact .refl s

theorem takeFinal_inner (a : Active) (s : State) : Inner s (takeFinal a s) := by
  unfold takeFinal
  repeat' first
    | with_reducible exact .refl _
    | with_reducible refine (setPosition_inner _ _).after ?_
    | split

theorem endDiscard_inner (a : Active) (s : State) : Inner s (endDiscard a s) := by
  unfold endDiscard
  repeat' first
    | with_reducible exact .refl _
    | with_reducible refine (discard_inner _).after ?_
    | split

theorem clearActive_inner (s : State) : Inner s (clearActive s) := by
  unfold clearActive
  repeat' first
    | with_reducible exact .refl _
    | with_reducible refine Inner.setSeq ?_ ?_
    | exact fun h => ⟨h.1, h.2⟩

theorem finish_inner (s : State) : Inner s (finish s) := by
  unfold finish
  split
  · exact .refl s
  · rename_i a _
    dsimp only
    have h1 : Inner s (pushReport (endReport (endDiscard a (endCartridge a (takeFinal a (endRequest s)))) a
        (discardedBy a (endCartridge a (takeFinal a (endRequest s)))))
        (endDiscard a (endCartridge a (takeFinal a (endRequest s))))) :=
      (pushReport_inner _ _).after ((endDiscard_inner _ _).after ((endCartridge_inner _ _).after
        ((takeFinal_inner _ _).after (endRequest_inner s))))
    refine ⟨h1.same.trans ((clearActive_inner _).same.trans ((faultBits_same _).trans (inhibitController_same _))),
      fun k => ?_⟩
    have h2 := h1.sound k
    exact inhibitController_sound (faultBits_core ((clearActive_inner _).sound h2).core)

theorem cutShort_inner (c : Cause) (s : State) : Inner s (cutShort c s) := by
  unfold cutShort
  split
  · exact .refl s
  · exact ((setFinal_inner _ _).after ((raise_inner _ _).after ((cutCapture_inner _).after (dropGate_inner s)))).setEvents

theorem onsetReports_inner (new : BitVec 6) (s : State) : Inner s (onsetReports new s) := by
  unfold onsetReports
  generalize [0, 1, 2, 3, 4, 5] = l
  suffices h : ∀ (l : List Nat) (t : State), Inner s t →
      Inner s (l.foldl (fun t i => if new.getLsbD i then pushUnsolicited .faultOnset t else t) t) from h l s (.refl s)
  intro l
  induction l with
  | nil => exact fun t h => h
  | cons i rest ih =>
    intro t h
    refine ih _ ?_
    dsimp only
    split
    · exact (pushUnsolicited_inner _ _).after h
    · exact h

theorem writeInhibitOnset_inner (s : State) : Inner s (writeInhibitOnset s) := by
  unfold writeInhibitOnset
  repeat' first
    | with_reducible exact .refl _
    | with_reducible refine (setPhase_inner _ _ _).after ?_
    | with_reducible refine (raise_inner _ _).after ?_
    | with_reducible refine (dropGate_inner _).after ?_
    | with_reducible refine (askStop_inner _).after ?_
    | with_reducible refine (setPosition_inner _ _).after ?_
    | split

theorem applyInhibits_same (s : State) : Same s (applyInhibits s) := by
  have h1 : Same s (if s.health.motionFault && s.motion.state != .inhibited then
      if s.seq.active.isSome then cutShort .fault (inhibitController s) else inhibitController s
    else inhibitController s) := by
    repeat' split
    · exact (inhibitController_same s).trans (cutShort_inner _ _).same
    · exact inhibitController_same s
    · exact inhibitController_same s
  have h2 : ∀ u, Same s u → Same s (if u.health.writeFault && u.framer.gate then writeInhibitOnset u else u) := by
    intro u hu
    split
    · exact hu.trans (writeInhibitOnset_inner _).same
    · exact hu
  exact h2 _ h1

theorem applyInhibits_sound {s : State} (k : Core s) : Sound (applyInhibits s) := by
  have h1 : Sound (if s.health.motionFault && s.motion.state != .inhibited then
      if s.seq.active.isSome then cutShort .fault (inhibitController s) else inhibitController s
    else inhibitController s) := by
    repeat' split
    · exact (cutShort_inner _ _).sound (inhibitController_sound k)
    · exact inhibitController_sound k
    · exact inhibitController_sound k
  have h2 : ∀ u, Sound u → Sound (if u.health.writeFault && u.framer.gate then writeInhibitOnset u else u) := by
    intro u hu
    split
    · exact (writeInhibitOnset_inner _).sound hu
    · exact hu
  exact h2 _ h1

/-- R147 to R151: a judgement makes the fault bits and the inhibit consistent, whatever the mask and bits were. -/
theorem judgeAfter_sound {first : State → State} (hf : ∀ u, Inner u (first u)) {s : State} (h : Core (faultBits s)) :
    Sound (judgeAfter first s) := by
  have h1 := (hf _).sound (applyInhibits_sound h)
  unfold judgeAfter
  dsimp only
  split
  · exact h1
  · exact (onsetReports_inner _ _).sound h1

theorem judge_sound {s : State} (h : Core (faultBits s)) : Sound (judge s) := judgeAfter_sound (fun u => .refl u) h

theorem applyInhibits_inner (s : State) : Inner s (applyInhibits s) :=
  ⟨applyInhibits_same s, fun k => applyInhibits_sound k.core⟩

theorem judgeAfter_inner {first : State → State} (hf : ∀ u, Inner u (first u)) (s : State) :
    Inner s (judgeAfter first s) := by
  refine ⟨?_, fun k => judgeAfter_sound hf (faultBits_core k.core)⟩
  have h1 := ((faultBits_same s).trans (applyInhibits_same _)).trans (hf _).same
  unfold judgeAfter
  dsimp only
  split
  · exact h1
  · exact h1.trans (onsetReports_inner _ _).same

theorem judge_inner (s : State) : Inner s (judge s) := judgeAfter_inner (fun u => .refl u) s

theorem judge_same (s : State) : Same s (judge s) := (judge_inner s).same

theorem and_subset {a b m r : BitVec 6} (hm : a &&& m = 0#6) (hr : a &&& ~~~r = 0#6) :
    (a &&& b) &&& m = 0#6 ∧ (a &&& b) &&& ~~~r = 0#6 := by
  constructor
  · have : a &&& b &&& m = a &&& m &&& b := by ext i hi; simp [Bool.and_assoc, Bool.and_comm, Bool.and_left_comm]
    rw [this, hm]; simp
  · have : a &&& b &&& ~~~r = a &&& ~~~r &&& b := by ext i hi; simp [Bool.and_assoc, Bool.and_comm, Bool.and_left_comm]
    rw [this, hr]; simp

/-- Bits `p` within `r` lie within what `p` keeps of `r`. -/
theorem and_keep {p r : BitVec 6} (h : p &&& ~~~r = 0#6) : p &&& ~~~(r &&& p) = 0#6 := by
  ext i hi
  have := congrArg (fun v => v[i]) h
  simp at this ⊢
  intro hp
  simp [hp, this hp]

theorem clearAction_sound {s : State} (k : Core s) : Sound (clearAction s) := by
  refine inhibitController_sound ⟨k.1, k.2, k.3, k.4, ?_, k.6, k.7, k.8⟩
  obtain ⟨h1, h2⟩ := k.5
  obtain ⟨h3, h4⟩ := and_subset (b := staticFaults ||| (latchedFaults &&& conditions s)) h1 h2
  refine ⟨h3, ?_⟩
  dsimp only
  generalize s.health.present &&& (staticFaults ||| latchedFaults &&& conditions s) = p at *
  exact and_keep h4

theorem clearAction_inner (s : State) : Inner s (clearAction s) :=
  ⟨Same.trans (t := { s with health := { s.health with
        present := s.health.present &&& (staticFaults ||| (latchedFaults &&& conditions s))
        recorded := s.health.recorded &&& (s.health.present &&& (staticFaults ||| (latchedFaults &&& conditions s))) } })
      ⟨rfl, rfl, rfl, rfl, rfl, rfl, rfl, rfl⟩ (inhibitController_same _), fun k => clearAction_sound k.core⟩

theorem autoClear_inner (kind : OrderKind) (s : State) : Inner s (autoClear kind s) := by
  have h1 : ∀ drop : BitVec 6, Inner s
      (inhibitController { s with health := { s.health with present := s.health.present &&& ~~~drop } }) := by
    intro drop
    refine ⟨Same.trans (t := { s with health := { s.health with present := s.health.present &&& ~~~drop } })
      ⟨rfl, rfl, rfl, rfl, rfl, rfl, rfl, rfl⟩ (inhibitController_same _), fun k => ?_⟩
    exact inhibitController_sound ⟨k.1, k.2, k.3, k.4, and_subset k.5.1 k.5.2, k.6, k.7, k.8⟩
  unfold autoClear
  split
  · exact h1 _
  · exact .refl s

theorem or_masked {p r m b : BitVec 6} (hb : m &&& b = 0#6) (h1 : p &&& m = 0#6) (h2 : p &&& ~~~r = 0#6) :
    (p ||| b) &&& m = 0#6 ∧ (p ||| b) &&& ~~~(r ||| b) = 0#6 := by
  constructor
  · ext i hi
    have a1 := congrArg (fun v => v[i]) h1
    have a2 := congrArg (fun v => v[i]) hb
    simp at a1 a2 ⊢
    intro h
    cases hm : m[i]
    · rfl
    · rcases h with h | h
      · simp [hm] at a1; simp [a1] at h
      · simp [hm] at a2; simp [a2] at h
  · ext i hi
    have a1 := congrArg (fun v => v[i]) h2
    simp at a1 ⊢
    intro h
    rcases h with h | h
    · simp [a1 h]
    · simp [h]

theorem stalledAtRest_inner (s : State) : Inner s (stalledAtRest s) :=
  (loseReference_inner _).after (((Inner.refl s).setMotion (m := { s.motion with
    request := none, waiting := none, seek := .none }) rfl .rfl fun h hi => ⟨rfl, (h hi).2⟩).setEvents)

theorem latchStall_same (s : State) : Same s (latchStall s) := by
  unfold latchStall
  split
  · exact ⟨rfl, rfl, rfl, rfl, rfl, rfl, rfl, rfl⟩
  · exact Same.trans (stalledAtRest_inner s).same ⟨rfl, rfl, rfl, rfl, rfl, rfl, rfl, rfl⟩

/-- R91: STALL latched, where it is not masked. -/
theorem latchStall_core {s : State} (hm : stallMasked s = false) (h : Sound s) : Core (latchStall s) := by
  have hm' : s.health.mask &&& stallBit = 0#6 := by simpa [stallMasked] using hm
  unfold latchStall
  split
  · exact ⟨h.1, h.2, h.3, h.4, or_masked hm' h.5.1 h.5.2, h.6, h.7, h.8⟩
  · have k := (stalledAtRest_inner s).sound h
    exact ⟨k.1, k.2, k.3, k.4, or_masked (m := s.health.mask) hm' h.5.1 h.5.2, k.6, k.7, k.8⟩

theorem stallFault_inner (s : State) : Inner s (stallFault s) := by
  unfold stallFault
  split
  · exact .refl s
  · rename_i hm
    have h1 : Inner s (applyInhibits (latchStall s)) :=
      ⟨(latchStall_same s).trans (applyInhibits_same _), fun k => applyInhibits_sound (latchStall_core (by simpa using hm) k)⟩
    dsimp only
    split
    · exact h1
    · exact (onsetReports_inner _ _).after h1

theorem activate_inner (e : QueueEntry) (rest : List QueueEntry) (s : State) (hr : rest.length ≤ s.seq.queue.length) :
    Inner s (activate e rest s) :=
  ((Inner.refl s).setPower (x := { s.power with standbyTimer := 0 })).setSeq
    fun h => ⟨Nat.le_trans hr h.1, h.2⟩

theorem autoClearEntry_inner (e : QueueEntry) (s : State) : Inner s (autoClearEntry e s) := by
  unfold autoClearEntry
  repeat' first
    | with_reducible exact .refl _
    | with_reducible refine (autoClear_inner _ _).after ?_
    | split

theorem handOverOrder_inner (e : QueueEntry) (s : State) : Inner s (handOverOrder e s) :=
  (autoClearEntry_inner _ _).after ((activate_inner _ _ _ (by simp)).after
    ((finish_inner _).after (raise_inner _ _)))

/-! ### Writer.lean -/

theorem raiseStop_inner (s : State) : Inner s (raiseStop s) := by
  unfold raiseStop
  repeat' first
    | with_reducible exact .refl _
    | with_reducible refine (raise_inner _ _).after ?_
    | split

theorem stopToEnd_inner (s : State) : Inner s (stopToEnd s) := by
  unfold stopToEnd
  repeat' first
    | with_reducible exact .refl _
    | with_reducible refine (raiseStop_inner _).after ?_
    | with_reducible refine (setPhase_inner _ _ _).after ?_
    | with_reducible refine (askStop_inner _).after ?_

theorem streamEnds_inner (c : Cause) (s : State) : Inner s (streamEnds c s) := by
  unfold streamEnds
  repeat' first
    | with_reducible exact .refl _
    | with_reducible refine (stopToEnd_inner _).after ?_
    | with_reducible refine (raise_inner _ _).after ?_

theorem reposition_inner (resume : Resume) (s : State) : Inner s (reposition resume s) := by
  unfold reposition
  repeat' first
    | with_reducible exact .refl _
    | with_reducible refine (onActive_inner _ _).after ?_
    | with_reducible refine (askStop_inner _).after ?_
    | with_reducible refine Inner.setBanks ?_

theorem noteRecorded_inner (a : Active) (r : Recording) (s : State) : Inner s (noteRecorded a r s) := by
  refine (onActive_inner _ _).after ?_
  split
  · exact .refl s
  · exact (Inner.refl s).setPlace (fun h => mapTruncate_sound h _ _) (.inr rfl)

theorem beginRecording_inner (r : Recording) (s : State) : Inner s (beginRecording r s) :=
  (Inner.refl s).setFramer fun _ _ => by simp

theorem recordBlock_inner (a : Active) (r : Recording) (s : State) : Inner s (recordBlock a r s) := by
  unfold recordBlock
  repeat' first
    | with_reducible exact .refl _
    | with_reducible refine (beginRecording_inner _ _).after ?_
    | with_reducible refine (noteRecorded_inner _ _ _).after ?_
    | with_reducible refine (setPosition_inner _ _).after ?_
    | with_reducible refine Inner.setBanks ?_

theorem recordEnd_inner (use : EndUse) (t : Int) (n : BlockNo) (s : State) : Inner s (recordEnd use t n s) := by
  unfold recordEnd
  repeat' first
    | with_reducible exact .refl _
    | with_reducible refine (beginRecording_inner _ _).after ?_
    | with_reducible refine (noteRecorded_inner _ _ _).after ?_
    | with_reducible refine (setPhase_inner _ _ _).after ?_
    | with_reducible refine (onActive_inner _ _).after ?_
    | split

theorem noRoom_inner (a : Active) (s : State) : Inner s (noRoom a s) := by
  unfold noRoom
  repeat' first
    | with_reducible exact .refl _
    | with_reducible refine (streamEnds_inner _ _).after ?_
    | with_reducible refine (dropGate_inner _).after ?_
    | with_reducible refine (setPosition_inner _ _).after ?_

theorem recordOrFull_inner (a : Active) (r : Recording) (s : State) : Inner s (recordOrFull a r s) := by
  unfold recordOrFull
  repeat' first
    | with_reducible exact .refl _
    | with_reducible refine (noRoom_inner _ _).after ?_
    | with_reducible refine (recordEnd_inner _ _ _ _).after ?_
    | with_reducible refine (recordBlock_inner _ _ _).after ?_
    | with_reducible refine (raise_inner _ _).after ?_
    | split

theorem startBlock_inner (t : Int) (s : State) : Inner s (startBlock t s) := by
  unfold startBlock
  repeat' first
    | with_reducible exact .refl _
    | with_reducible refine (recordOrFull_inner _ _ _).after ?_
    | with_reducible refine (noRoom_inner _ _).after ?_
    | with_reducible refine (recordEnd_inner _ _ _ _).after ?_
    | split

theorem blockDone_inner (r : Recording) (s : State) : Inner s (blockDone r s) := by
  unfold blockDone
  repeat' first
    | with_reducible exact .refl _
    | with_reducible refine (onActive_inner _ _).after ?_
    | with_reducible refine (setPosition_inner _ _).after ?_
    | with_reducible refine Inner.setBanks ?_

theorem writeBoundary_inner (a : Active) (t : Int) (s : State) : Inner s (writeBoundary a t s) := by
  unfold writeBoundary
  repeat' first
    | with_reducible exact .refl _
    | with_reducible refine (startBlock_inner _ _).after ?_
    | with_reducible refine (recordEnd_inner _ _ _ _).after ?_
    | with_reducible refine (handOverOrder_inner _ _).after ?_
    | with_reducible refine (setPhase_inner _ _ _).after ?_
    | with_reducible refine (raise_inner _ _).after ?_
    | with_reducible refine (onActive_inner _ _).after ?_
    | split

theorem goodVerdict_inner (a : Active) (r : Recording) (s : State) : Inner s (goodVerdict a r s) := by
  unfold goodVerdict
  repeat' first
    | with_reducible exact .refl _
    | with_reducible refine (writeBoundary_inner _ _ _).after ?_
    | with_reducible refine (blockDone_inner _ _).after ?_
    | with_reducible refine (startBlock_inner _ _).after ?_
    | with_reducible refine (recordEnd_inner _ _ _ _).after ?_
    | with_reducible refine (raiseStop_inner _).after ?_
    | split

theorem countRewrite_inner (s : State) : Inner s (countRewrite s) := by
  unfold countRewrite
  repeat' first
    | with_reducible exact .refl _
    | with_reducible refine (onActive_inner _ _).after ?_
    | with_reducible refine Inner.setBanks ?_

theorem badVerdict_inner (a : Active) (r : Recording) (s : State) : Inner s (badVerdict a r s) := by
  unfold badVerdict
  repeat' first
    | with_reducible exact .refl _
    | with_reducible refine (countRewrite_inner _).after ?_
    | with_reducible refine (recordEnd_inner _ _ _ _).after ?_
    | with_reducible refine (recordBlock_inner _ _ _).after ?_
    | with_reducible refine (raiseStop_inner _).after ?_
    | with_reducible refine (raise_inner _ _).after ?_
    | split
    | dsimp only

theorem onVerdict_inner (good : Bool) (s : State) : Inner s (onVerdict good s) := by
  unfold onVerdict
  repeat' first
    | with_reducible exact .refl _
    | with_reducible refine (badVerdict_inner _ _ _).after ?_
    | with_reducible refine (goodVerdict_inner _ _ _).after ?_
    | split

theorem eraseDone_inner (s : State) : Inner s (eraseDone s) := by
  unfold eraseDone
  repeat' first
    | with_reducible exact .refl _
    | with_reducible refine (setPhase_inner _ _ _).after ?_
    | with_reducible refine (dropGate_inner _).after ?_
    | with_reducible refine (askStop_inner _).after ?_

theorem eraseStopped_inner (s : State) : Inner s (eraseStopped s) := by
  unfold eraseStopped
  repeat' first
    | with_reducible exact .refl _
    | with_reducible refine (stopToEnd_inner _).after ?_
    | with_reducible refine (dropGate_inner _).after ?_

theorem endComplete_inner (r : Recording) (s : State) : Inner s (endComplete r s) := by
  have h1 : ∀ p, Inner s (setPosition p s) := fun p => setPosition_inner p s
  unfold endComplete
  split
  · exact .refl s
  · dsimp only
    split
    · exact (stopToEnd_inner _).after ((dropGate_inner _).after (h1 _))
    · split
      · exact (stopToEnd_inner _).after ((dropGate_inner _).after (h1 _))
      · exact (reposition_inner _ _).after ((onActive_inner _ _).after ((dropGate_inner _).after (h1 _)))
    · have h2 : ∀ (p : Option Position) (f : Framer), (GateUsed (setPosition p s).framer → GateUsed f) →
          Inner s (setPhase .erase .scan { setPosition p s with framer := f }) :=
        fun p f hf => (setPhase_inner _ _ _).after ((h1 p).setFramer hf)
      split
      · exact (eraseStopped_inner _).after (h2 _ _ fun _ _ => by simp)
      · exact h2 _ _ fun _ _ => by simp

theorem enterField_inner (r : Recording) (s : State) : Inner s (enterField r s) := by
  have h1 : ∀ f : Framer, f.gate = s.framer.gate → f.writer = s.framer.writer → Inner s { s with framer := f } := by
    intro f hg hw
    exact (Inner.refl s).setFramer fun h => by unfold GateUsed at *; rw [hg, hw]; exact h
  unfold enterField
  dsimp only
  repeat' apply iteInduction <;> intro
  · exact h1 _ rfl rfl
  · exact h1 _ rfl rfl
  · exact h1 _ rfl rfl
  · exact .refl s

theorem recordingDone_inner (r : Recording) (s : State) : Inner s (recordingDone r s) := by
  unfold recordingDone
  split
  · exact endComplete_inner _ _
  · exact (Inner.refl s).setFramer fun _ _ => by simp

theorem closeWindow_inner (s : State) : Inner s (closeWindow s) := by
  unfold closeWindow
  repeat' first
    | with_reducible exact .refl _
    | with_reducible refine (onVerdict_inner _ _).after ?_
    | split

theorem writerStep_inner (s : State) : Inner s (writerStep s) := by
  have h1 : ∀ u, Inner s u → Inner s (match u.framer.writer with
      | .recording r => if r.blockEnd ≤ u.motion.pos then recordingDone r u else enterField r u
      | _ => u) := by
    intro u hu
    split
    · split
      · exact (recordingDone_inner _ _).after hu
      · exact (enterField_inner _ _).after hu
    · exact hu
  have h2 : ∀ u, Inner s u → Inner s (match u.framer.writer, u.seq.active with
      | .erasing, some a => if partEnd a.snap a.part ≤ u.motion.pos then eraseDone u else u
      | _, _ => u) := by
    intro u hu
    split
    · split
      · exact (eraseDone_inner _).after hu
      · exact hu
    · exact hu
  exact h2 _ (h1 _ (closeWindow_inner s))

theorem confirmed_inner (t : Int) (s : State) : Inner s (confirmed t s) := by
  unfold confirmed
  repeat' first
    | with_reducible exact .refl _
    | with_reducible refine (startBlock_inner _ _).after ?_
    | with_reducible refine (onActive_inner _ _).after ?_
    | with_reducible refine (setPosition_inner _ _).after ?_

theorem confirmFailed_inner (a : Active) (s : State) : Inner s (confirmFailed a s) := by
  unfold confirmFailed
  repeat' first
    | with_reducible exact .refl _
    | with_reducible refine (reposition_inner _ _).after ?_
    | with_reducible refine (streamEnds_inner _ _).after ?_
    | with_reducible refine (onActive_inner _ _).after ?_
    | with_reducible refine (setPosition_inner _ _).after ?_
    | split

theorem confirmStep_inner (a : Active) (s : State) : Inner s (confirmStep a s) := by
  unfold confirmStep
  repeat' first
    | with_reducible exact .refl _
    | with_reducible refine (confirmFailed_inner _ _).after ?_
    | with_reducible refine (confirmed_inner _ _).after ?_
    | split
    | dsimp only

theorem confirmHeader_inner (a : Active) (h : Header) (s : State) : Inner s (confirmHeader a h s) := by
  unfold confirmHeader
  repeat' first
    | with_reducible exact .refl _
    | with_reducible refine (onActive_inner _ _).after ?_
    | split

/-! ### Reading.lean -/

theorem learn_inner (h : Header) (s : State) (hi : h.origin < 8388608) : Inner s (learn h s) := by
  unfold learn
  split
  · exact .refl s
  · rename_i a _
    refine (onActive_inner _ _).after ?_
    split
    · rename_i ht
      refine (Inner.refl s).setPlace (fun k => mapInsert_sound k _ _ _ ?_ hi) (.inr rfl)
      simp only [teaches, inRegion, Bool.and_eq_true, decide_eq_true_eq] at ht
      have h0 : (0 : Int) ≤ partStart a.snap h.part := Int.natCast_nonneg _
      omega
    · exact .refl s

theorem scanEnds_inner (c : Cause) (final : Option Position) (s : State) : Inner s (scanEnds c final s) := by
  unfold scanEnds
  repeat' first
    | with_reducible exact .refl _
    | with_reducible refine (setFinal_inner _ _).after ?_
    | with_reducible refine (setPhase_inner _ _ _).after ?_
    | with_reducible refine (raise_inner _ _).after ?_
    | with_reducible refine (askStop_inner _).after ?_

theorem passBlock_inner (a : Active) (h : Header) (s : State) : Inner s (passBlock a h s) := by
  unfold passBlock
  repeat' first
    | with_reducible exact .refl _
    | with_reducible refine (onActive_inner _ _).after ?_

theorem locateHeader_inner (a : Active) (h : Header) (s : State) : Inner s (locateHeader a h s) := by
  unfold locateHeader
  repeat' first
    | with_reducible exact .refl _
    | with_reducible refine (passBlock_inner _ _ _).after ?_
    | with_reducible refine (scanEnds_inner _ _ _).after ?_
    | split

theorem spaceBlocksTake_inner (a : Active) (h : Header) (s : State) : Inner s (spaceBlocksTake a h s) := by
  unfold spaceBlocksTake
  repeat' first
    | with_reducible exact .refl _
    | with_reducible refine (passBlock_inner _ _ _).after ?_
    | with_reducible refine (scanEnds_inner _ _ _).after ?_
    | split

theorem spaceBlocksEnd_inner (a : Active) (h : Header) (s : State) : Inner s (spaceBlocksEnd a h s) := by
  unfold spaceBlocksEnd
  repeat' first
    | with_reducible exact .refl _
    | with_reducible refine (scanEnds_inner _ _ _).after ?_
    | split

theorem spaceFencesTake_inner (a : Active) (h : Header) (s : State) : Inner s (spaceFencesTake a h s) := by
  unfold spaceFencesTake
  repeat' first
    | with_reducible exact .refl _
    | with_reducible refine (passBlock_inner _ _ _).after ?_
    | with_reducible refine (scanEnds_inner _ _ _).after ?_
    | with_reducible refine (onActive_inner _ _).after ?_
    | split

theorem forwardTake_inner (a : Active) (h : Header) (s : State) : Inner s (forwardTake a h s) := by
  unfold forwardTake
  repeat' first
    | with_reducible exact .refl _
    | with_reducible refine (spaceFencesTake_inner _ _ _).after ?_
    | with_reducible refine (spaceBlocksTake_inner _ _ _).after ?_
    | with_reducible refine (passBlock_inner _ _ _).after ?_
    | split

theorem forwardEnd_inner (a : Active) (h : Header) (s : State) : Inner s (forwardEnd a h s) := by
  unfold forwardEnd
  repeat' first
    | with_reducible exact .refl _
    | with_reducible refine (spaceBlocksEnd_inner _ _ _).after ?_
    | with_reducible refine (scanEnds_inner _ _ _).after ?_
    | split

theorem forwardHeader_inner (a : Active) (h : Header) (s : State) : Inner s (forwardHeader a h s) := by
  unfold forwardHeader
  repeat' first
    | with_reducible exact .refl _
    | with_reducible refine (forwardEnd_inner _ _ _).after ?_
    | with_reducible refine (forwardTake_inner _ _ _).after ?_
    | with_reducible refine (scanEnds_inner _ _ _).after ?_
    | split

theorem backMark_inner (a : Active) (n : BlockNo) (earliest : Int) (s : State) : Inner s (backMark a n earliest s) := by
  unfold backMark
  repeat' first
    | with_reducible exact .refl _
    | with_reducible refine (onActive_inner _ _).after ?_

theorem fixFinal_inner (c : Cause) (s : State) : Inner s (fixFinal c s) := by
  unfold fixFinal
  repeat' first
    | with_reducible exact .refl _
    | with_reducible refine (raise_inner _ _).after ?_
    | with_reducible refine (onActive_inner _ _).after ?_

theorem backJudge_inner (a : Active) (h : Header) (s : State) : Inner s (backJudge a h s) := by
  unfold backJudge
  repeat' first
    | with_reducible exact .refl _
    | with_reducible refine (fixFinal_inner _ _).after ?_
    | with_reducible refine (scanEnds_inner _ _ _).after ?_
    | with_reducible refine (onActive_inner _ _).after ?_
    | split

theorem backEnds_inner (final : Option Position) (s : State) : Inner s (backEnds final s) := by
  unfold backEnds
  repeat' first
    | with_reducible exact .refl _
    | with_reducible refine (setFinal_inner _ _).after ?_
    | with_reducible refine (setPhase_inner _ _ _).after ?_
    | with_reducible refine (askStop_inner _).after ?_

theorem fixedHeader_inner (a : Active) (h : Header) (s : State) : Inner s (fixedHeader a h s) := by
  unfold fixedHeader
  repeat' first
    | with_reducible exact .refl _
    | with_reducible refine (backEnds_inner _ _).after ?_
    | with_reducible refine (backMark_inner _ _ _ _).after ?_
    | split

theorem backHeader_inner (a : Active) (h : Header) (s : State) : Inner s (backHeader a h s) := by
  unfold backHeader
  repeat' first
    | with_reducible exact .refl _
    | with_reducible refine (fixedHeader_inner _ _ _).after ?_
    | with_reducible refine (backJudge_inner _ _ _).after ?_
    | with_reducible refine (backMark_inner _ _ _ _).after ?_
    | with_reducible refine (scanEnds_inner _ _ _).after ?_
    | split

theorem backAtStart_inner (a : Active) (s : State) : Inner s (backAtStart a s) := by
  unfold backAtStart
  repeat' first
    | with_reducible exact .refl _
    | with_reducible refine (backEnds_inner _ _).after ?_
    | with_reducible refine (scanEnds_inner _ _ _).after ?_
    | split

theorem readEnds_inner (c : Cause) (p : Option Position) (s : State) : Inner s (readEnds c p s) := by
  unfold readEnds
  repeat' first
    | with_reducible exact .refl _
    | with_reducible refine (streamEnds_inner _ _).after ?_
    | with_reducible refine (setPosition_inner _ _).after ?_

theorem armCapture_inner (a : Active) (h : Header) (s : State) : Inner s (armCapture a h s) := by
  unfold armCapture
  split
  · exact .refl s
  · split
    · split
      · exact reposition_inner _ _
      · rename_i id _
        exact ((Inner.refl s).setBanks (k := s.banks.claim id (capturingBank a h))).setFramer fun h => h
    · exact (Inner.refl s).setFramer fun h => h

theorem seeCopy_inner (a : Active) (p : Position) (h : Header) (s : State) : Inner s (seeCopy a p h s) := by
  unfold seeCopy
  repeat' first
    | with_reducible exact .refl _
    | with_reducible refine (onActive_inner _ _).after ?_
    | with_reducible refine (setPosition_inner _ _).after ?_
    | split

theorem missedBlock_inner (a : Active) (p : Position) (s : State) : Inner s (missedBlock a p s) := by
  unfold missedBlock
  split
  · exact (reposition_inner _ _).after ((onActive_inner _ _).after ((Inner.refl s).setBanks))
  · exact readEnds_inner _ _ _

theorem readHeaderAt_inner (a : Active) (p : Position) (h : Header) (s : State) : Inner s (readHeaderAt a p h s) := by
  unfold readHeaderAt
  repeat' first
    | with_reducible exact .refl _
    | with_reducible refine (missedBlock_inner _ _ _).after ?_
    | with_reducible refine (seeCopy_inner _ _ _ _).after ?_
    | with_reducible refine (armCapture_inner _ _ _).after ?_
    | with_reducible refine (readEnds_inner _ _ _).after ?_
    | with_reducible refine (setPosition_inner _ _).after ?_
    | split

theorem readHeader_inner (a : Active) (h : Header) (s : State) : Inner s (readHeader a h s) := by
  unfold readHeader
  repeat' first
    | with_reducible exact .refl _
    | with_reducible refine (readHeaderAt_inner _ _ _ _).after ?_
    | split

theorem laterCopy_inner (h : Header) (s : State) : Inner s (laterCopy h s) := by
  unfold laterCopy
  repeat' first
    | with_reducible exact .refl _
    | with_reducible refine (setPosition_inner _ _).after ?_
    | split

theorem readPastEnd_inner (s : State) : Inner s (readPastEnd s) := by
  unfold readPastEnd
  repeat' first
    | with_reducible exact .refl _
    | with_reducible refine (readEnds_inner _ _ _).after ?_

theorem scanFrom_inner (s : State) : Inner s (scanFrom s) := by
  unfold scanFrom
  repeat' first
    | with_reducible exact .refl _
    | with_reducible refine (onActive_inner _ _).after ?_

theorem readBoundary_inner (a : Active) (s : State) : Inner s (readBoundary a s) := by
  unfold readBoundary
  repeat' first
    | with_reducible exact .refl _
    | with_reducible refine (scanFrom_inner _).after ?_
    | with_reducible refine (handOverOrder_inner _ _).after ?_
    | with_reducible refine (setPhase_inner _ _ _).after ?_
    | with_reducible refine (raise_inner _ _).after ?_
    | with_reducible refine (askStop_inner _).after ?_
    | split

theorem readDone_inner (a : Active) (p : Position) (k : Capture) (s : State) : Inner s (readDone a p k s) := by
  unfold readDone
  repeat' first
    | with_reducible exact .refl _
    | with_reducible refine (onActive_inner _ _).after ?_
    | with_reducible refine (setPosition_inner _ _).after ?_

theorem readResult_inner (good : Bool) (k : Capture) (s : State) : Inner s (readResult good k s) := by
  unfold readResult
  repeat' first
    | with_reducible exact .refl _
    | with_reducible refine (readDone_inner _ _ _ _).after ?_
    | with_reducible refine (readBoundary_inner _ _).after ?_
    | with_reducible refine (stopToEnd_inner _).after ?_
    | split

theorem onCapture_inner (good : Bool) (data : List Byte) (s : State) : Inner s (onCapture good data s) := by
  unfold onCapture
  split
  · exact .refl s
  · rename_i k _
    exact (readResult_inner _ _ _).after
      (((Inner.refl s).setBanks (k := captureBank good data k s.banks)).setFramer fun h => h)

theorem restartGap_inner (s : State) : Inner s (restartGap s) := by
  unfold restartGap
  repeat' first
    | with_reducible exact .refl _
    | with_reducible refine (onActive_inner _ _).after ?_

theorem FieldPlace.origin_lt (p : FieldPlace) : p.origin < 8388608 := by
  have := BitVec.toInt_lt (x := p.tick)
  unfold FieldPlace.origin
  split <;> simp only [Config.headerEndTicks, Config.gapTicks] <;> omega

theorem goodHeader_origin {f : HeaderField} {t : Int} {h : Header} (hg : goodHeader f t = some h) : h.origin = t := by
  unfold goodHeader at hg
  dsimp only at hg
  split at hg
  · simp at hg
  · split at hg
    · simp only [Option.some.injEq] at hg; rw [← hg]
    · simp at hg

theorem loadHeader_inner (c : HeaderContent) (s : State) : Inner s (loadHeader c s) :=
  (Inner.refl s).setFramer fun h => h

theorem classify_inner (h : Header) (s : State) : Inner s (classify h s) := by
  unfold classify
  repeat' first
    | with_reducible exact .refl _
    | with_reducible refine (laterCopy_inner _ _).after ?_
    | with_reducible refine (readHeader_inner _ _ _).after ?_
    | with_reducible refine (backHeader_inner _ _ _).after ?_
    | with_reducible refine (forwardHeader_inner _ _ _).after ?_
    | with_reducible refine (locateHeader_inner _ _ _).after ?_
    | with_reducible refine (confirmHeader_inner _ _ _).after ?_
    | split

theorem headerMet_inner (f : HeaderField) {t : Int} (ht : t < 8388608) (s : State) : Inner s (headerMet f t s) := by
  have h1 : Inner s (restartGap { onCapture false [] s with
      framer := { (onCapture false [] s).framer with headerCrc := headerCheck (fieldContent f) } }) :=
    (restartGap_inner _).after ((onCapture_inner false [] s).setFramer fun h => h)
  unfold headerMet
  dsimp only
  split
  · exact h1
  · rename_i h hg
    have ho : h.origin < 8388608 := by rw [goodHeader_origin hg]; exact ht
    exact (classify_inner _ _).after ((learn_inner _ _ ho).after ((loadHeader_inner _ _).after h1))

theorem countGap_inner (origin : Int) (s : State) : Inner s (countGap origin s) := by
  unfold countGap
  repeat' first
    | with_reducible exact .refl _
    | with_reducible refine (onActive_inner _ _).after ?_

theorem countGapBack_inner (origin : Int) (s : State) : Inner s (countGapBack origin s) := by
  unfold countGapBack
  repeat' first
    | with_reducible exact .refl _
    | with_reducible refine (onActive_inner _ _).after ?_

theorem blankMet_inner (s : State) : Inner s (blankMet s) := by
  unfold blankMet
  repeat' first
    | with_reducible exact .refl _
    | with_reducible refine (scanEnds_inner _ _ _).after ?_
    | with_reducible refine (streamEnds_inner _ _).after ?_
    | split

theorem blankBack_inner (s : State) : Inner s (blankBack s) := by
  unfold blankBack
  repeat' first
    | with_reducible exact .refl _
    | with_reducible refine (scanEnds_inner _ _ _).after ?_
    | split

theorem scanPastEnd_inner (a : Active) (s : State) : Inner s (scanPastEnd a s) := by
  unfold scanPastEnd
  split
  · exact readPastEnd_inner s
  · exact scanEnds_inner _ _ s

theorem scanLimits_inner (a : Active) (s : State) : Inner s (scanLimits a s) := by
  unfold scanLimits
  repeat' first
    | with_reducible exact .refl _
    | with_reducible refine (blankMet_inner _).after ?_
    | with_reducible refine (scanPastEnd_inner _ _).after ?_
    | split

theorem scanStep_inner (a : Active) (s : State) : Inner s (scanStep a s) := by
  unfold scanStep
  dsimp only
  split
  · exact (scanPastEnd_inner _ _).after (countGap_inner _ _)
  · exact countGap_inner _ _

theorem limitsAfterResult_inner (s : State) : Inner s (limitsAfterResult s) := by
  unfold limitsAfterResult
  repeat' first
    | with_reducible exact .refl _
    | with_reducible refine (scanLimits_inner _ _).after ?_
    | split

theorem scanBackStep_inner (a : Active) (s : State) : Inner s (scanBackStep a s) := by
  unfold scanBackStep
  dsimp only
  split
  · exact (backAtStart_inner _ _).after (countGapBack_inner _ _)
  · exact countGapBack_inner _ _

theorem phaseStep_inner (s : State) : Inner s (phaseStep s) := by
  unfold phaseStep
  repeat' first
    | with_reducible exact .refl _
    | with_reducible refine (scanBackStep_inner _ _).after ?_
    | with_reducible refine (scanStep_inner _ _).after ?_
    | with_reducible refine (confirmStep_inner _ _).after ?_
    | split

theorem fieldRead_inner (p : FieldPlace) (b : BitVec 64) (s : State) : Inner s (fieldRead p b s) :=
  (headerMet_inner _ p.origin_lt _).after ((Inner.refl s).setFramer fun h => h)

theorem stepHeader_inner (s : State) : Inner s (stepHeader s) := by
  unfold stepHeader
  repeat' split
  · exact .refl s
  · exact .refl s
  · exact fieldRead_inner _ _ _

theorem gapStep_inner (s : State) : Inner s (gapStep s) := by
  unfold gapStep
  repeat' first
    | with_reducible exact .refl _
    | with_reducible exact blankMet_inner _
    | with_reducible exact blankBack_inner _
    | split

/-! ### Begin.lean -/

theorem moveTo_inner (t : Int) (s : State) : Inner s (moveTo t s) := by
  unfold moveTo
  repeat' first
    | with_reducible exact .refl _
    | with_reducible refine (ask_inner _ _).after ?_

theorem searchRun_inner (d : Dir) (s : State) : Inner s (searchRun d s) := by
  unfold searchRun
  repeat' first
    | with_reducible exact .refl _
    | with_reducible refine (ask_inner _ _).after ?_

theorem streamRun_inner (s : State) : Inner s (streamRun s) := by
  unfold streamRun
  repeat' first
    | with_reducible exact .refl _
    | with_reducible refine (ask_inner _ _).after ?_

theorem zeroSeek_inner (s : State) : Inner s (zeroSeek s) := by
  unfold zeroSeek
  repeat' first
    | with_reducible exact .refl _
    | with_reducible refine (setPhase_inner _ _ _).after ?_
    | with_reducible refine (ask_inner _ _).after ?_

theorem beginRun_inner (s : State) : Inner s (beginRun s) := by
  unfold beginRun
  repeat' first
    | with_reducible exact .refl _
    | with_reducible refine (streamRun_inner _).after ?_
    | with_reducible refine (searchRun_inner _ _).after ?_
    | with_reducible refine (scanFrom_inner _).after ?_
    | with_reducible refine (setPhase_inner _ _ _).after ?_
    | with_reducible refine (onActive_inner _ _).after ?_
    | split

theorem approachDone_inner (s : State) : Inner s (approachDone s) := by
  unfold approachDone
  repeat' first
    | with_reducible exact .refl _
    | with_reducible refine (beginRun_inner _).after ?_
    | with_reducible refine (setPhase_inner _ _ _).after ?_
    | split

theorem approach_inner (slot : Int) (stage : Stage) (s : State) : Inner s (approach slot stage s) := by
  unfold approach
  repeat' first
    | with_reducible exact .refl _
    | with_reducible refine (approachDone_inner _).after ?_
    | with_reducible refine (moveTo_inner _ _).after ?_
    | with_reducible refine (setPhase_inner _ _ _).after ?_
    | split

theorem forgetPosition_inner (s : State) : Inner s (forgetPosition s) :=
  (Inner.refl s).setPlace (fun h => h) (.inl rfl)

theorem travelToStart_inner (s : State) : Inner s (travelToStart s) := by
  unfold travelToStart
  repeat' first
    | with_reducible exact .refl _
    | with_reducible refine (moveTo_inner _ _).after ?_
    | with_reducible refine (setPhase_inner _ _ _).after ?_
    | split

theorem setScanOrigin_inner (t : Int) (s : State) : Inner s (setScanOrigin t s) := by
  unfold setScanOrigin
  repeat' first
    | with_reducible exact .refl _
    | with_reducible refine (onActive_inner _ _).after ?_

theorem locateFrom_inner (s : State) : Inner s (locateFrom s) := by
  have h1 : ∀ (p : Option Position) (c : Position → Bool) (t : Int) (m : State → Int) (u : State), Inner s u →
      Inner s (match p with
        | some p => if c p then approach p.slot .scan (setScanOrigin p.slot u)
          else moveTo (t - m u) (setPhase .travel .travel (setScanOrigin t u))
        | none => moveTo (t - m u) (setPhase .travel .travel (setScanOrigin t u))) := by
    intro p c t m u hu
    split
    · split
      · exact (approach_inner _ _ _).after ((setScanOrigin_inner _ _).after hu)
      · exact (moveTo_inner _ _).after ((setPhase_inner _ _ _).after ((setScanOrigin_inner _ _).after hu))
    · exact (moveTo_inner _ _).after ((setPhase_inner _ _ _).after ((setScanOrigin_inner _ _).after hu))
  unfold locateFrom
  split
  · exact .refl s
  · rename_i a _
    dsimp only
    cases anchorEntry a s.place.map with
    | none => exact h1 _ _ _ (fun _ => margin s) _ (.refl s)
    | some d =>
      exact h1 _ _ _ (fun _ => margin s) _
        ((Inner.refl s).setPlace (fun h => mapTouch_sound h d.part d.number) (.inr rfl))

theorem zeroedFirst_inner (go : State → State) (s : State) (h : Inner s (go s)) : Inner s (zeroedFirst go s) := by
  unfold zeroedFirst
  split
  · exact h
  · exact zeroSeek_inner s

theorem beginLoad_inner (s : State) : Inner s (beginLoad s) :=
  (zeroSeek_inner _).after ((Inner.refl s).setPlace (fun h => h) (.inl rfl))

theorem beginUnload_inner (s : State) : Inner s (beginUnload s) := by
  unfold beginUnload
  repeat' first
    | with_reducible exact .refl _
    | with_reducible refine (forgetPosition_inner _).after ?_
    | with_reducible refine (zeroSeek_inner _).after ?_

theorem beginRewind_inner (s : State) : Inner s (beginRewind s) :=
  (zeroedFirst_inner _ _ (travelToStart_inner _)).after (forgetPosition_inner s)

theorem beginLocate_inner (params : List Byte) (s : State) : Inner s (beginLocate params s) :=
  (zeroedFirst_inner _ _ (locateFrom_inner _)).after ((onActive_inner _ _).after (forgetPosition_inner s))

theorem beginMoveRaw_inner (params : List Byte) (s : State) : Inner s (beginMoveRaw params s) := by
  unfold beginMoveRaw
  repeat' first
    | with_reducible exact .refl _
    | with_reducible refine (forgetPosition_inner _).after ?_
    | with_reducible refine (moveTo_inner _ _).after ?_
    | with_reducible refine (setPhase_inner _ _ _).after ?_
    | with_reducible refine (onActive_inner _ _).after ?_

theorem endsAtStart_inner (c : Cause) (s : State) : Inner s (endsAtStart c s) := by
  unfold endsAtStart
  repeat' first
    | with_reducible exact .refl _
    | with_reducible refine (finish_inner _).after ?_
    | with_reducible refine (raise_inner _ _).after ?_

theorem beginForward_inner (p : Position) (target : Int) (s : State) : Inner s (beginForward p target s) := by
  unfold beginForward
  repeat' first
    | with_reducible exact .refl _
    | with_reducible refine (approach_inner _ _ _).after ?_
    | with_reducible refine (onActive_inner _ _).after ?_

theorem scanBackRun_inner (s : State) : Inner s (scanBackRun s) := by
  unfold scanBackRun
  repeat' first
    | with_reducible exact .refl _
    | with_reducible refine (searchRun_inner _ _).after ?_
    | with_reducible refine (setPhase_inner _ _ _).after ?_
    | with_reducible refine (onActive_inner _ _).after ?_

theorem beginBack_inner (p : Position) (target : Int) (s : State) : Inner s (beginBack p target s) := by
  unfold beginBack
  repeat' first
    | with_reducible exact .refl _
    | with_reducible refine (scanBackRun_inner _).after ?_
    | with_reducible refine (moveTo_inner _ _).after ?_
    | with_reducible refine (setPhase_inner _ _ _).after ?_
    | with_reducible refine (onActive_inner _ _).after ?_
    | split

theorem beginSpace_inner (params : List Byte) (p : Position) (s : State) : Inner s (beginSpace params p s) := by
  unfold beginSpace
  repeat' first
    | with_reducible exact .refl _
    | with_reducible refine (beginBack_inner _ _ _).after ?_
    | with_reducible refine (beginForward_inner _ _ _).after ?_
    | with_reducible refine (endsAtStart_inner _ _).after ?_
    | split
    | dsimp only

theorem beginSeekEnd_inner (p : Position) (s : State) : Inner s (beginSeekEnd p s) := by
  unfold beginSeekEnd
  repeat' first
    | with_reducible exact .refl _
    | with_reducible refine (beginForward_inner _ _ _).after ?_
    | with_reducible refine (endsAtStart_inner _ _).after ?_
    | split

theorem beginRead_inner (p : Position) (s : State) : Inner s (beginRead p s) := by
  unfold beginRead
  repeat' first
    | with_reducible exact .refl _
    | with_reducible refine (endsAtStart_inner _ _).after ?_
    | with_reducible refine (approach_inner _ _ _).after ?_
    | split

theorem beginWrite_inner (p : Position) (s : State) : Inner s (beginWrite p s) := by
  unfold beginWrite
  repeat' first
    | with_reducible exact .refl _
    | with_reducible refine (approach_inner _ _ _).after ?_
    | with_reducible refine (onActive_inner _ _).after ?_
    | split

theorem fromPosition_inner (go : Position → State → State) (s : State) (h : ∀ p, Inner s (go p s)) :
    Inner s (fromPosition go s) := by
  unfold fromPosition
  split
  · exact h _
  · exact .refl s

theorem beginOrder_inner (k : OrderKind) (params : List Byte) (s : State) : Inner s (beginOrder k params s) := by
  cases k
  case mark => exact endsAtStart_inner _ _
  case clearMap =>
    exact (endsAtStart_inner _ _).after
      ((Inner.refl s).setPlace (p := mapClear s.place) (fun h => mapClear_sound h) (.inr rfl))
  case load => exact beginLoad_inner _
  case unload => exact beginUnload_inner _
  case rewind => exact beginRewind_inner _
  case locate => exact beginLocate_inner _ _
  case moveRaw => exact beginMoveRaw_inner _ _
  case spaceBlocks => exact fromPosition_inner _ _ fun _ => beginSpace_inner _ _ _
  case spaceFences => exact fromPosition_inner _ _ fun _ => beginSpace_inner _ _ _
  case seekEnd => exact fromPosition_inner _ _ fun _ => beginSeekEnd_inner _ _
  case readBlocks => exact fromPosition_inner _ _ fun _ => beginRead_inner _ _
  case verifyBlocks => exact fromPosition_inner _ _ fun _ => beginRead_inner _ _
  case writeBlocks => exact fromPosition_inner _ _ fun _ => beginWrite_inner _ _
  case writeFences => exact fromPosition_inner _ _ fun _ => beginWrite_inner _ _
  case eraseRemainder => exact fromPosition_inner _ _ fun _ => beginWrite_inner _ _

theorem departEntry_inner (e : QueueEntry) (rest : List QueueEntry) (s : State)
    (hr : rest.length ≤ s.seq.queue.length) : Inner s (departEntry e rest s) := by
  have h1 : Inner s (autoClearEntry e (activate e rest s)) :=
    (autoClearEntry_inner _ _).after (activate_inner _ _ _ hr)
  unfold departEntry
  dsimp only
  split
  · exact (endsAtStart_inner _ _).after h1
  · split
    · exact (beginOrder_inner _ _ _).after h1
    · exact h1

theorem depart_inner (s : State) : Inner s (depart s) := by
  unfold depart
  split
  · exact .refl s
  · rename_i hq
    exact departEntry_inner _ _ _ (by rw [hq]; simp)

/-! ### Events.lean -/

theorem stopHere_inner (a : Active) (s : State) : Inner s (stopHere a s) := by
  unfold stopHere
  repeat' first
    | with_reducible exact .refl _
    | with_reducible refine (stopToEnd_inner _).after ?_
    | with_reducible refine (setFinal_inner _ _).after ?_

theorem stopUnderWay_inner (s : State) : Inner s (stopUnderWay s) := by
  unfold stopUnderWay
  repeat' first
    | with_reducible exact .refl _
    | with_reducible refine (raiseStop_inner _).after ?_
    | with_reducible refine (setPhase_inner _ _ _).after ?_

theorem interrupt_inner (s : State) : Inner s (interrupt s) := by
  unfold interrupt
  repeat' first
    | with_reducible exact .refl _
    | with_reducible refine (stopUnderWay_inner _).after ?_
    | with_reducible refine (stopHere_inner _ _).after ?_
    | with_reducible refine (eraseStopped_inner _).after ?_
    | with_reducible refine (raiseStop_inner _).after ?_
    | with_reducible refine (setFinal_inner _ _).after ?_
    | with_reducible refine (setPhase_inner _ _ _).after ?_
    | split

theorem onZeroed_inner (s : State) : Inner s (onZeroed s) := by
  have h1 : ∀ a : Active, Inner s (if a.kind == some .load then judge { s with place := { s.place with cart := .loaded } }
      else s) := by
    intro a
    split
    · exact (judge_inner _).after ((Inner.refl s).setPlace (mapSound_of_map rfl rfl) (.inr rfl))
    · exact .refl s
  have h2 : ∀ u, Inner s u → Inner s (match u.seq.active with
      | none => u
      | some b => if stopWanted u b then setPhase .ending .reference (setFinal (some none) (raiseStop u)) else u) := by
    intro u hu
    split
    · exact hu
    · split
      · exact (setPhase_inner _ _ _).after ((setFinal_inner _ _).after ((raiseStop_inner _).after hu))
      · exact hu
  unfold onZeroed
  split
  · exact .refl s
  · exact h2 _ (h1 _)

theorem seekFailed_inner (s : State) : Inner s (seekFailed s) := by
  unfold seekFailed
  repeat' first
    | with_reducible exact .refl _
    | with_reducible refine (raiseStop_inner _).after ?_
    | with_reducible refine (setFinal_inner _ _).after ?_
    | with_reducible refine (setPhase_inner _ _ _).after ?_
    | with_reducible refine (raise_inner _ _).after ?_

theorem writeBoundaryMet_inner (a : Active) (s : State) : Inner s (writeBoundaryMet a s) := by
  unfold writeBoundaryMet
  repeat' first
    | with_reducible exact .refl _
    | with_reducible refine (dropGate_inner _).after ?_
    | with_reducible refine (setPosition_inner _ _).after ?_
    | split

theorem onBoundary_inner (reason : BoundaryReason) (s : State) : Inner s (onBoundary reason s) := by
  unfold onBoundary
  repeat' first
    | with_reducible exact .refl _
    | with_reducible refine (writeBoundaryMet_inner _ _).after ?_
    | with_reducible refine (seekFailed_inner _).after ?_
    | with_reducible refine (raiseStop_inner _).after ?_
    | with_reducible refine (setFinal_inner _ _).after ?_
    | with_reducible refine (setPhase_inner _ _ _).after ?_
    | with_reducible refine (raise_inner _ _).after ?_
    | split

theorem afterSeek_inner (a : Active) (s : State) : Inner s (afterSeek a s) := by
  unfold afterSeek
  repeat' first
    | with_reducible exact .refl _
    | with_reducible refine (locateFrom_inner _).after ?_
    | with_reducible refine (travelToStart_inner _).after ?_
    | with_reducible refine (finish_inner _).after ?_
    | with_reducible refine (setFinal_inner _ _).after ?_
    | with_reducible refine (raise_inner _ _).after ?_
    | split

theorem afterTravel_inner (a : Active) (s : State) : Inner s (afterTravel a s) := by
  unfold afterTravel
  repeat' first
    | with_reducible exact .refl _
    | with_reducible refine (scanBackRun_inner _).after ?_
    | with_reducible refine (beginRun_inner _).after ?_
    | with_reducible refine (finish_inner _).after ?_
    | with_reducible refine (setFinal_inner _ _).after ?_
    | with_reducible refine (raise_inner _ _).after ?_
    | split

theorem afterStopping_inner (a : Active) (s : State) : Inner s (afterStopping a s) := by
  unfold afterStopping
  repeat' first
    | with_reducible exact .refl _
    | with_reducible refine (moveTo_inner _ _).after ?_
    | with_reducible refine (setPhase_inner _ _ _).after ?_

theorem afterPark_inner (s : State) : Inner s (afterPark s) := by
  unfold afterPark
  repeat' first
    | with_reducible exact .refl _
    | with_reducible refine (finish_inner _).after ?_
    | with_reducible refine (raise_inner _ _).after ?_

theorem atRest_inner (a : Active) (s : State) : Inner s (atRest a s) := by
  unfold atRest
  repeat' first
    | with_reducible exact .refl _
    | with_reducible refine (afterPark_inner _).after ?_
    | with_reducible refine (afterStopping_inner _ _).after ?_
    | with_reducible refine (afterTravel_inner _ _).after ?_
    | with_reducible refine (afterSeek_inner _ _).after ?_
    | with_reducible refine (approachDone_inner _).after ?_
    | with_reducible refine (moveTo_inner _ _).after ?_
    | with_reducible refine (finish_inner _).after ?_
    | with_reducible refine (setPhase_inner _ _ _).after ?_
    | split

theorem onStopped_inner (s : State) : Inner s (onStopped s) := by
  unfold onStopped
  repeat' first
    | with_reducible exact .refl _
    | with_reducible refine (onCapture_inner _ _ _).after ?_
    | with_reducible refine (finish_inner _).after ?_
    | with_reducible refine (setFinal_inner _ _).after ?_
    | with_reducible refine (raiseStop_inner _).after ?_
    | with_reducible refine (atRest_inner _ _).after ?_
    | split
    | dsimp only

theorem onStepped_inner (s : State) : Inner s (onStepped s) := by
  have h1 : Inner s (gapStep (stepHeader (phaseStep (writerStep s)))) :=
    (gapStep_inner _).after ((stepHeader_inner _).after ((phaseStep_inner _).after (writerStep_inner s)))
  unfold onStepped
  dsimp only
  split
  · exact (judge_inner _).after h1
  · exact h1

theorem cancelRequest_still {m : Motion} : Still (cancelRequest m) := fun _ => ⟨rfl, rfl⟩

theorem cancelRequest_state (m : Motion) : (cancelRequest m).state = .inhibited ↔ m.state = .inhibited := by
  simp only [cancelRequest]
  split <;> simp_all

theorem cancelRequest_inner (s : State) : Inner s { s with motion := cancelRequest s.motion } :=
  (Inner.refl s).setMotion rfl (cancelRequest_state _) fun _ => cancelRequest_still

theorem restarted_inner (s : State) : Inner s (restarted s) := by
  have h1 : Inner s (handOver (goOn (ctlEnv s) s.motion) s) := handOver_inner (goOn_keeps _ _)
  unfold restarted
  dsimp only
  split
  · exact cancelRequest_inner s
  split
  · exact (interrupt_inner _).after h1
  · exact h1

theorem onEvent_inner (e : MotionEvent) (s : State) : Inner s (onEvent e s) := by
  cases e
  case zeroed => exact onZeroed_inner s
  case atRate => exact .refl s
  case boundary => exact onBoundary_inner _ s
  case stall => exact stallFault_inner s
  case stepped => exact onStepped_inner s
  case restart => exact restarted_inner s
  case stoppedAt t o held =>
    unfold onEvent
    dsimp only
    split
    · exact .refl s
    · exact onStopped_inner s
  case orderEnds => exact finish_inner s

theorem enterSleep_inner (s : State) : Inner s (enterSleep s) := by
  have h1 := cancelRequest_inner s
  exact (((h1.setPower).setSeq fun _ => ⟨Nat.zero_le _, Nat.zero_le _⟩).setEvents)

theorem cutLoad_inner (s : State) : Inner s (cutLoad s) := by
  unfold cutLoad
  split
  · exact (Inner.refl s).setPlace (mapSound_of_map rfl rfl) (.inr rfl)
  · exact .refl s

theorem forcedSleep_inner (s : State) : Inner s (forcedSleep s) := by
  refine (enterSleep_inner _).after ((dropGate_inner _).after ((cutLoad_inner _).after ?_))
  split
  · rename_i h; exact hold_inner h
  · exact .refl s

theorem settleStep_inner {s t : State} (h : settleStep s = some t) : Inner s t := by
  unfold settleStep at h
  split at h
  · simp only [Option.some.injEq] at h
    rw [← h]
    exact (onEvent_inner _ _).after ((Inner.refl s).setEvents)
  · repeat' split at h
    all_goals simp only [Option.some.injEq, reduceCtorEq] at h
    all_goals try rw [← h]
    · exact enterSleep_inner s
    · exact depart_inner s
    · exact beginRun_inner s

theorem settleFor_inner (n : Nat) (s : State) : Inner s (settleFor n s) := by
  induction n generalizing s with
  | zero => exact (Inner.refl s).setEvents
  | succ n ih =>
    unfold settleFor
    split
    · exact .refl s
    · rename_i h
      exact (ih _).after (settleStep_inner h)

theorem settle_inner (s : State) : Inner s (settle s) := settleFor_inner _ s

/-! ### What falls at the instant of a rest -/

theorem beforeRest_sound {act : State → State} (ha : ∀ u, Sound u → Sound (act u)) {s : State} (h : Sound s) :
    Sound (beforeRest act s) :=
  ((Inner.refl (act { s with events := [] })).setEvents).sound (ha _ (((Inner.refl s).setEvents).sound h))

theorem settleAroundFor_sound {act : State → State} (ha : ∀ u, Sound u → Sound (act u)) (n : Nat) {s : State} (h : Sound s) :
    Sound (settleAroundFor act n s) := by
  induction n generalizing s with
  | zero => exact (settleFor_inner 0 _).sound (ha _ h)
  | succ n ih =>
    unfold settleAroundFor
    split
    · exact (settleFor_inner _ _).sound (ha _ h)
    · split
      · exact (settleFor_inner _ _).sound (beforeRest_sound ha h)
      · exact ih ((onEvent_inner _ _).sound (((Inner.refl s).setEvents).sound h))

theorem settleAround_sound {act : State → State} (ha : ∀ u, Sound u → Sound (act u)) {s : State} (h : Sound s) :
    Sound (settleAround act s) := settleAroundFor_sound ha _ h

end Sys2Proof.Machine
end

