-- ==== Sys2Proof/Laws/SoundRows.lean ====
section
/-! SUPPORT. Sound states stay sound under the operations of the commands: the power states and the resets, the host's
accesses, the controller's, the Framer's, the sensors' and the link's. -/

namespace Sys2Proof.Machine

/-! ### PowerOps.lean: acts inside a command -/

theorem enterStandby_inner (s : State) : Inner s (enterStandby s) := (Inner.refl s).setPower

theorem enterPending_inner (s : State) : Inner s (enterPending s) := (Inner.refl s).setPower

theorem leavePending_inner (s : State) : Inner s (leavePending s) := (Inner.refl s).setPower

theorem linkSourceSet_inner (s : State) : Inner s (linkSourceSet s) := by
  unfold linkSourceSet
  split
  · exact .refl s
  · split
    · exact (settle_inner _).after (enterPending_inner s)
    · exact (settle_inner _).after (enterPending_inner s)
    · exact .refl s

theorem linkSourceClear_inner (s : State) : Inner s (linkSourceClear s) := by
  unfold linkSourceClear
  split
  · exact (settle_inner _).after (leavePending_inner s)
  · exact .refl s

theorem judgeSources_inner (s : State) : Inner s (judgeSources s) := by
  unfold judgeSources
  split
  · exact forcedSleep_inner s
  · split
    · exact (enterSleep_inner _).after (enterPending_inner s)
    · exact .refl s

theorem loseCartridge_inner (s : State) : Inner s (loseCartridge s) :=
  (loseReference_inner _).after ((Inner.refl s).setPlace (p := { mapClear s.place with cart := .empty })
    (fun h => mapSound_of_map (p := mapClear s.place) rfl rfl (mapClear_sound h)) (.inr rfl))

/-- R53, R147: the conditions at a removal, with what they impose, in a part whose transport may move. -/
theorem judged_inner (s : State) : Inner s (inhibitController (faultBits s)) :=
  ⟨(faultBits_same s).trans (inhibitController_same _), fun k => inhibitController_sound (faultBits_core k.core)⟩

theorem stilled_inner (s : State) : Inner s (if s.motion.moving then hold false s else s) := by
  split
  · rename_i h; exact hold_inner h
  · exact .refl s

theorem removeCartridge_inner (act : State → State) (s : State) : Inner s (removeCartridge act s) := by
  unfold removeCartridge
  split
  · exact judge_inner s
  · split
    · exact (cutShort_inner _ _).after ((stilled_inner _).after ((judged_inner _).after (loseCartridge_inner s)))
    · exact (judgeAfter_inner (fun _ => pushBefore_inner _ _ _) _).after
        ((loseCartridge_inner _).after (stilled_inner s))

theorem insertCartridge_inner (act : State → State) (s : State) : Inner s (insertCartridge act s) := by
  have h1 : Inner s { s with place := { s.place with cart := .inserted } } :=
    (Inner.refl s).setPlace (mapSound_of_map rfl rfl) (.inr rfl)
  unfold insertCartridge
  split
  · dsimp only
    split
    · exact (judge_inner _).after h1
    · exact (judgeAfter_inner (fun _ => pushBefore_inner _ _ _) _).after h1
  · exact judge_inner s

theorem cartinAround_sound {act : State → State} (ha : ∀ u, Sound u → Sound (act u)) (present : Bool) {s : State}
    (h : Sound s) : Sound (cartinAround act present s) := by
  unfold cartinAround
  refine beforeRest_sound ha ?_
  split
  · exact (insertCartridge_inner act s).sound h
  · exact (removeCartridge_inner act s).sound h

theorem followCartin_inner (present : Bool) (s : State) : Inner s (followCartin present s) := by
  unfold followCartin cartinAround
  refine (((Inner.refl _).setEvents).after ((Inner.refl _).setEvents)).after ?_
  split
  · exact insertCartridge_inner id s
  · exact removeCartridge_inner id s

theorem resetCartridge_inner (s : State) : Inner s (resetCartridge s) := by
  unfold resetCartridge
  repeat' split
  · exact .refl s
  · exact loseCartridge_inner s
  · exact .refl s
  · exact (Inner.refl s).setPlace (mapSound_of_map rfl rfl) (.inr rfl)

theorem loadCartridgeLevels_act (s : State) : Act s (loadCartridgeLevels s) := setInputs_act s _

theorem loadHealthLevels_act (s : State) : Act s (loadHealthLevels s) := setInputs_act s _

theorem resetHold_inner (s : State) : Inner s (resetHold s) := by
  refine (dropGate_inner _).after ?_
  split
  · rename_i h; exact hold_inner h
  · exact .refl s

theorem resetReportBefore_inner (after : State → State) (c : Cause) (s : State) : Inner s (resetReportBefore after c s) :=
  (pushBefore_inner _ _ _).after (emptyReports_inner s)

theorem resetReport_inner (c : Cause) (s : State) : Inner s (resetReport c s) :=
  (pushUnsolicited_inner _ _).after (emptyReports_inner s)

theorem waitExpired_inner (s : State) : Inner s (waitExpired s) :=
  (settle_inner _).after (handOver_inner (waitOver_keeps _ _))

theorem tickPort_inner (s : State) : Inner s (tickPort s) := (Inner.refl s).setPower

theorem tickWaits_inner (s : State) : Inner s (tickWaits s) := by
  unfold tickWaits
  repeat' split
  · exact waitExpired_inner s
  · exact (Inner.refl s).setMotion rfl .rfl fun h => h
  · exact waitExpired_inner s
  · exact (Inner.refl s).setMotion rfl .rfl fun h => h
  · exact .refl s

theorem tickStandby_inner (s : State) : Inner s (tickStandby s) := by
  unfold tickStandby
  repeat' split
  · exact enterStandby_inner s
  · exact (Inner.refl s).setPower
  · exact (Inner.refl s).setPower

theorem tickDeadline_inner (s : State) : Inner s (tickDeadline s) := by
  unfold tickDeadline
  repeat' split
  · exact forcedSleep_inner s
  · exact (Inner.refl s).setPower
  · exact .refl s

theorem tickTimers_inner (s : State) : Inner s (tickTimers s) := by
  unfold tickTimers
  split
  · exact .refl s
  · exact (tickStandby_inner _).after ((tickWaits_inner _).after (tickPort_inner s))

theorem reactTo_inner (before : Bool) (s : State) : Inner s (reactTo before s) := by
  unfold reactTo
  split
  · exact judge_inner s
  · exact followCartin_inner _ s

/-- What the samples of a millisecond bring, once their levels stand. -/
theorem reaction_inner (before : Bool) (s : State) : Inner s (settle (reactTo before s)) :=
  (settle_inner _).after (reactTo_inner _ _)

theorem tickInputs_act (s : State) : Act s (tickInputs s) := (reaction_inner _ _).act.after (setInputs_act s _)

theorem awakeTick_act (s : State) : Act s (awakeTick s) := by
  unfold awakeTick
  dsimp only
  split
  · exact (tickDeadline_inner s).act
  · exact (tickTimers_inner _).act.after ((tickInputs_act _).after (tickDeadline_inner s).act)

/-- R94, R145: after a millisecond in a part that is awake and not asleep within it, the levels are those that its samples
give. -/
theorem awakeTick_inputs {s : State} (h : s.power.state ≠ .sleepPending) (hs : s.power.state ≠ .sleep) :
    (awakeTick s).inputs = (sampleInputs s).inputs := by
  have hd : tickDeadline s = s := if_neg fun k => h k.1
  rw [awakeTick, hd, if_neg hs]
  exact (tickTimers_inner _).same.inputs.trans (reaction_inner _ _).same.inputs

/-! ### PowerOps.lean: resets and the wake -/

theorem defaults_inRange : SetupInRange Setup.defaults := by
  unfold SetupInRange Setup.defaults; decide

/-- R19, R41, R73, R144: the order side, the banks, the Framer and the Host Port emptied. -/
theorem clearOrderSide_sound {s : State} (h : Sound s) : Sound (clearOrderSide s) :=
  ⟨⟨Nat.zero_le _, Nat.zero_le _⟩, h.2, h.3, h.4, h.5, fun hg => by simp [clearOrderSide, Framer.afterReset] at hg,
    h.7, h.8, h.9⟩

theorem resetMotion_sound {s : State} (h : Sound s) (p : Power) :
    Sound { s with motion := resetMotion s.motion, power := p } := by
  have h1 : (resetMotion s.motion).state = .inhibited ↔ s.motion.state = .inhibited := cancelRequest_state _
  exact (((Inner.refl s).setMotion (m := resetMotion s.motion) rfl h1 fun _ _ => ⟨rfl, rfl⟩).setPower).sound h

/-- R178 steps 1 to 7: the wake leaves a sound state, whatever the controller was doing. -/
theorem wakeChanges_sound {s : State} (h : Sound s) : Sound (wakeChanges s) := by
  have h1 : Sound (clearOrderSide (loadHealthLevels (loadCartridgeLevels s))) :=
    clearOrderSide_sound ((loadHealthLevels_act _).sound ((loadCartridgeLevels_act s).sound h))
  unfold wakeChanges
  dsimp only
  generalize clearOrderSide (loadHealthLevels (loadCartridgeLevels s)) = u at h1 ⊢
  refine clearAction_sound (faultBits_core ⟨h1.1, h1.2, ?_, fun hp => by simp [wakePlace] at hp, h1.5, h1.6, h1.7,
    fun hs => by simp [wakeMotion, Motion.afterPowerOn] at hs⟩)
  exact ⟨Nat.zero_le _, List.Pairwise.nil, List.Pairwise.nil, fun _ hd => by simp [wakePlace] at hd⟩

theorem wakeUp_sound {s : State} (h : Sound s) : Sound (wakeUp s) :=
  (pushReport_inner _ _).sound (((emptyReports_inner _).setPower).sound (wakeChanges_sound h))

theorem followSlp_sound {s : State} (h : Sound s) : Sound (followSlp s) := by
  unfold followSlp
  repeat' split
  · exact h
  · exact h
  · exact (forcedSleep_inner s).sound h
  · exact wakeUp_sound h
  · exact h

theorem wakeByLink_sound {s : State} (h : Sound s) : Sound (wakeByLink s) := by
  unfold wakeByLink
  split
  · exact h
  · exact wakeUp_sound h

theorem deviceResetActs_sound {s : State} (h : Sound s) : Sound (deviceResetActs s) := by
  have h1 : Sound (clearOrderSide (cutLoad (resetHold s))) :=
    clearOrderSide_sound ((cutLoad_inner _).sound ((resetHold_inner s).sound h))
  have h2 := resetMotion_sound h1 { (clearOrderSide (cutLoad (resetHold s))).power with state := .active }
  have h3 := faultBits_core ((resetCartridge_inner _).sound ((loadCartridgeLevels_act _).sound h2)).core
  have h4 : ∀ u, Core u → Sound (if u.health.supervisorOnly then inhibitController u else clearAction u) := by
    intro u hu
    split
    · exact inhibitController_sound hu
    · exact clearAction_sound hu
  exact h4 _ h3

theorem deviceReset_sound {s : State} (h : Sound s) : Sound (deviceReset s) :=
  (judgeSources_inner _).sound ((resetReport_inner _ _).sound (deviceResetActs_sound h))

theorem assertRst_sound {s : State} (h : Sound s) : Sound (assertRst s) := by
  have h1 : Sound (clearOrderSide (cutLoad (resetHold s))) :=
    clearOrderSide_sound ((cutLoad_inner _).sound ((resetHold_inner s).sound h))
  have h2 := resetMotion_sound h1 (assertRst s).power
  exact ⟨h2.1, h2.2, h2.3, h2.4, h2.5, h2.6, defaults_inRange, h2.8, h2.9⟩

theorem releaseRst_sound {s : State} (h : Sound s) : Sound (releaseRst s) := by
  have h1 : Sound { s with inputs := { s.inputs with rstLow := false } } := (setInputs_act s _).sound h
  have h2 : ∀ u, Sound u → Sound (judgeSources (resetReport .pinReset
      { u with power := { u.power with rstFromSleep := false } })) :=
    fun u hu => (judgeSources_inner _).sound ((resetReport_inner _ _).sound (((Inner.refl u).setPower).sound hu))
  unfold releaseRst
  dsimp only
  refine h2 _ ?_
  split
  · exact ((Inner.refl _).setPower).sound (wakeChanges_sound h1)
  · exact clearAction_sound (faultBits_core
      ((resetCartridge_inner _).sound ((loadCartridgeLevels_act _).sound h1)).core)

/-- R158, R179: a power-on reset leaves a sound state, whatever stood before. -/
theorem powerOnReset_sound (pins : Pins) (s : State) : Sound (powerOnReset pins s) := by
  have h1 : Core (porState pins s) :=
    ⟨⟨Nat.zero_le _, Nat.zero_le _⟩, ⟨Nat.zero_le _, Nat.zero_le _⟩,
      ⟨Nat.zero_le _, List.Pairwise.nil, List.Pairwise.nil, fun _ hd => by simp [porState, State.reset] at hd⟩,
      fun hp => by simp [porState, State.reset] at hp, ⟨show (0#6 &&& 0#6) = 0#6 by decide, show (0#6 &&& ~~~0#6) = 0#6 by decide⟩,
      fun hg => by simp [porState, State.reset, Framer.afterReset] at hg, defaults_inRange,
      fun hs => by simp [porState, State.reset, Motion.afterPowerOn] at hs⟩
  have h2 := (resetReport_inner .powerOn _).sound (inhibitController_sound (faultBits_core h1))
  unfold powerOnReset
  dsimp only
  split
  · exact (forcedSleep_inner _).sound h2
  · exact h2

theorem msTick_sound {s : State} (h : Sound s) : Sound (msTick s) := by
  have h1 : ∀ x, Sound { s with inputs := x } := fun _ => (setInputs_act s _).sound h
  have h2 : ∀ u, Sound u → Sound (if s.power.state = .sleep ∨ u.power.state = .sleep then u else awakeTick u) := by
    intro u hu
    split
    · exact hu
    · exact (awakeTick_act u).sound hu
  unfold msTick
  dsimp only
  refine h2 _ ?_
  split
  · exact h1 _
  · exact followSlp_sound (h1 _)

/-! ### HostOps.lean -/

/-- A change of the Host Port's own registers, of the link or of the queue of commands keeps a state sound. -/
theorem Sound.setHost {s : State} (h : Sound s) (x : HostPort) : Sound { s with host := x } :=
  ⟨h.1, h.2, h.3, h.4, h.5, h.6, h.7, h.8, h.9⟩

theorem Sound.setLink {s : State} (h : Sound s) (x : Link) : Sound { s with link := x } :=
  ⟨h.1, h.2, h.3, h.4, h.5, h.6, h.7, h.8, h.9⟩

theorem Sound.setPending {s : State} (h : Sound s) (l : List Instr) : Sound { s with pending := l } :=
  ⟨h.1, h.2, h.3, h.4, h.5, h.6, h.7, h.8, h.9⟩

theorem drive_sound (v : Byte) {s : State} (h : Sound s) : Sound (drive v s) := h.setHost _

theorem setDataError_sound {s : State} (h : Sound s) : Sound (setDataError s) := h.setHost _

theorem setSetupError_sound (i : Byte) {s : State} (h : Sound s) : Sound (setSetupError i s) := h.setHost _

theorem dataPortRead_sound {s : State} (h : Sound s) : Sound (dataPortRead s) := by
  unfold dataPortRead
  split
  · exact setDataError_sound (drive_sound _ h)
  · exact (settle_inner _).sound (drive_sound _ (((Inner.refl s).setBanks).sound h))

theorem dataPortWrite_sound (v : Byte) {s : State} (h : Sound s) : Sound (dataPortWrite v s) := by
  unfold dataPortWrite
  repeat' split
  · exact setDataError_sound h
  · exact setDataError_sound h
  · exact (settle_inner _).sound (((Inner.refl s).setBanks).sound h)

theorem readReport_sound {s : State} (h : Sound s) : Sound (readReport s) :=
  ((Inner.refl _).setReports advance_fits).sound (drive_sound (reportByte s.reports) h)

theorem ackReport_sound {s : State} (h : Sound s) : Sound (ackReport s) :=
  (settle_inner _).sound (((Inner.refl s).setReports acknowledge_fits).sound h)

theorem rewindReport_sound {s : State} (h : Sound s) : Sound (rewindReport s) :=
  ((Inner.refl s).setReports (q := { s.reports with readIndex := 0 }) fun k => ⟨k.1, Nat.zero_le _⟩).sound h

theorem reportControl_sound (v : Byte) {s : State} (h : Sound s) : Sound (reportControl v s) := by
  unfold reportControl
  repeat' split
  · exact ackReport_sound h
  · exact rewindReport_sound h
  · exact h

theorem stageParam_sound (v : Byte) {s : State} (h : Sound s) : Sound (stageParam v s) := by
  unfold stageParam
  split
  · rename_i hl
    refine ((Inner.refl s).setSeq (q := { s.seq with staging := s.seq.staging ++ [v] }) fun k => ⟨k.1, ?_⟩).sound h
    simp only [List.length_append, List.length_cons, List.length_nil]
    omega
  · exact h.setHost _

theorem readItem_sound (r : ItemRow) (k : Nat) {s : State} (h : Sound s) : Sound (readItem r k s) := by
  unfold readItem
  dsimp only
  repeat' split
  · exact drive_sound _ h
  · exact (drive_sound _ h).setHost _
  · exact drive_sound _ h

theorem setupRead_sound {s : State} (h : Sound s) : Sound (setupRead s) := by
  unfold setupRead
  split
  · exact (drive_sound 0 h).setHost _
  · exact (readItem_sound _ _ h).setHost _

/-- R184, R185: the size in bytes of a writable item. -/
def Item.bytes : Item → Nat
  | .approachMargin => 2
  | .gapLimit => 2
  | .earlyWarning => 3
  | .maxTape => 3
  | .partStart _ => 3
  | .partLength _ => 3
  | _ => 1

theorem writable_size : ∀ r ∈ itemRows, r.item.cls = .writable → r.size = r.item.bytes := by decide

theorem bytesValue_lt (l : List Byte) : bytesValue l < 256 ^ l.length := by
  induction l with
  | nil => decide
  | cons b rest ih =>
    have := b.isLt
    simp only [bytesValue, List.length_cons, Nat.pow_succ]
    omega

theorem assembled_lt (s : State) {r : ItemRow} (v : Byte) (hr : 0 < r.size) : assembled s r v < 256 ^ r.size := by
  have := bytesValue_lt ((List.range (r.size - 1)).map (lowerByte s r) ++ [v])
  simp only [List.length_append, List.length_map, List.length_range, List.length_cons, List.length_nil] at this
  rwa [Nat.zero_add, Nat.sub_add_cancel hr] at this

/-- R16, R184, R185: a committed value is in its item's range, so the setup stays in range. -/
theorem store_inRange {c : Setup} {item : Item} {v : Nat} (h : SetupInRange c) (ha : item.accepts v = true)
    (hv : v < 256 ^ item.bytes) : SetupInRange (c.store item v) := by
  unfold SetupInRange at *
  cases item <;> simp only [Setup.store] <;> first
    | exact h
    | (simp only [Item.accepts, Bool.and_eq_true, decide_eq_true_eq] at ha
       simp only [Item.bytes] at hv
       simp only [BitVec.toNat_ofNat]
       obtain ⟨a1, a2, a3, a4, a5, a6, a7, a8, a9, a10, a11, a12, a13, a14, a15, a16, a17, a18⟩ := h
       refine ⟨?_, ?_, ?_, ?_, ?_, ?_, ?_, ?_, ?_, ?_, ?_, ?_, ?_, ?_, ?_, ?_, ?_, ?_⟩ <;> first | assumption | omega)

theorem retime_inner (item : Item) (s : State) : Inner s (retime item s) := by
  unfold retime
  repeat' split
  · exact (Inner.refl s).setPower
  · exact enterStandby_inner s
  · exact .refl s
  · exact forcedSleep_inner s
  · exact .refl s
  · exact .refl s

theorem commitItem_sound {r : ItemRow} {v : Nat} {s : State} (h : Sound s) (hv : v < 256 ^ r.item.bytes) :
    Sound (commitItem r v s) := by
  unfold commitItem
  split
  · rename_i ha
    exact (retime_inner _ _).sound ⟨h.1, h.2, h.3, h.4, h.5, h.6, store_inRange h.7 ha hv, h.8, h.9⟩
  · exact setSetupError_sound _ h

theorem commitFaultClear_sound (v : Nat) {s : State} (h : Sound s) : Sound (commitFaultClear v s) := by
  unfold commitFaultClear
  split
  · exact clearAction_sound h.core
  · exact setSetupError_sound _ h

theorem commitEntry_sound (v : Nat) {s : State} (h : Sound s) : Sound (commitEntry v s) := by
  unfold commitEntry
  split
  · exact setSetupError_sound _ h
  · refine ((Inner.refl s).setPlace (p := mapInsert (entryPart v) (entryNumber v) (entryTick v) .host s.place)
      (fun k => mapInsert_sound k _ _ _ ?_ ?_) (.inr rfl)).sound h
    · have := BitVec.le_toInt (BitVec.ofNat 24 (v / 2 ^ 32)); unfold entryTick; omega
    · have := BitVec.toInt_lt (x := BitVec.ofNat 24 (v / 2 ^ 32)); unfold entryTick; omega

theorem itemAt_mem {i : Byte} {r : ItemRow} (h : itemAt i = some r) : r ∈ itemRows := List.mem_of_find?_eq_some h

theorem rows_nonempty : ∀ r ∈ itemRows, 0 < r.size := by decide

theorem commitValue_sound {r : ItemRow} {v : Byte} {s t : State} (hr : r ∈ itemRows) (h : Sound s) :
    Sound (commitValue r (assembled t r v) s) := by
  unfold commitValue
  split
  · rename_i hc
    exact commitItem_sound h (writable_size r hr hc ▸ assembled_lt t v (rows_nonempty r hr))
  · exact commitFaultClear_sound _ h
  · exact commitEntry_sound _ h
  · exact h

theorem writeItem_sound {r : ItemRow} (v : Byte) {s : State} (hr : r ∈ itemRows) (h : Sound s) :
    Sound (writeItem r v s) := by
  unfold writeItem
  repeat' split
  · exact setSetupError_sound _ h
  · exact h.setHost _
  · exact commitValue_sound hr (h.setHost _)

theorem setupWrite_sound (v : Byte) {s : State} (h : Sound s) : Sound (setupWrite v s) := by
  unfold setupWrite
  split
  · exact (setSetupError_sound _ h).setHost _
  · rename_i hr
    exact (writeItem_sound v (itemAt_mem hr) h).setHost _

theorem offerOrder_sound (code : Byte) {s : State} (h : Sound s) : Sound (offerOrder code s) := by
  unfold offerOrder
  split
  · rename_i hl
    refine (settle_inner _).sound ((((Inner.refl s).setPower (x := { s.power with standbyTimer := 0 })).setSeq
      (q := (acceptOrder code s).seq) fun k => ⟨?_, Nat.zero_le _⟩).sound h)
    simp only [acceptOrder, List.length_append, List.length_cons, List.length_nil]
    omega
  · exact h.setHost _

theorem idleStop_inner (c : Cause) (code : Byte) (s : State) : Inner s (idleStop c code s) :=
  (pushReport_inner _ _).after (discard_inner s)

theorem idleStopBefore_inner (after : State → State) (c : Cause) (code : Byte) (s : State) :
    Inner s (idleStopBefore after c code s) := (pushReport_inner _ _).after (discard_inner s)

/-- R39: an EMERGENCY STOP with an order active. -/
theorem stopActs_inner (s : State) : Inner s (stopActs s) := (cutShort_inner _ _).after (stilled_inner s)

theorem haltOrder_inner (s : State) : Inner s (haltOrder s) := by
  unfold haltOrder
  split
  · exact idleStop_inner _ _ _
  · unfold haltActive
    split
    · exact .refl s
    · exact (settle_inner _).after ((interrupt_inner _).after ((Inner.refl s).setSeq fun k => ⟨k.1, k.2⟩))

theorem emergencyStop_inner (s : State) : Inner s (emergencyStop s) := by
  unfold emergencyStop
  split
  · exact idleStop_inner _ _ _
  · exact (settle_inner _).after (stopActs_inner s)

theorem orderByte_sound (code : Byte) {s : State} (h : Sound s) : Sound (orderByte code s) := by
  unfold orderByte
  repeat' split
  · exact (haltOrder_inner s).sound h
  · exact (emergencyStop_inner s).sound h
  · exact deviceReset_sound h
  · exact offerOrder_sound _ h

theorem windowRead_sound (addr : BitVec 3) {s : State} (h : Sound s) : Sound (windowRead addr s) := by
  unfold windowRead
  split
  · exact dataPortRead_sound h
  · exact drive_sound _ h
  · exact drive_sound _ h
  · exact readReport_sound h
  · exact drive_sound _ h
  · exact drive_sound _ h
  · exact drive_sound _ h
  · exact setupRead_sound h

theorem windowWrite_sound (addr : BitVec 3) (v : Byte) {s : State} (h : Sound s) : Sound (windowWrite addr v s) := by
  unfold windowWrite
  split
  · exact dataPortWrite_sound v h
  · exact orderByte_sound v h
  · exact stageParam_sound v h
  · exact reportControl_sound v h
  · exact h.setHost _
  · exact h.setHost _
  · exact h.setHost _
  · exact setupWrite_sound v h

theorem hostAccess_sound (access : HostAccess) {s : State} (h : Sound s) : Sound (hostAccess access s) := by
  cases access
  · unfold hostAccess csRead
    dsimp only
    split
    · exact windowRead_sound _ h
    · exact drive_sound _ h
  · unfold hostAccess csWrite
    dsimp only
    split
    · exact windowWrite_sound _ _ h
    · exact h

/-! ### Controller, Framer, sensors -/

theorem stepCapstan_inner (header : Option (BitVec 64)) {s : State} (h : s.motion.moving = true) :
    Inner s (stepCapstan header s) :=
  Inner.after (handOver_inner (s := { s with framer := (stepCapstan header s).framer }) (stepOnce_keeps _ h))
    ((Inner.refl s).setFramer fun h => h)

theorem stepAround_sound {act : State → State} (ha : ∀ u, Sound u → Sound (act u)) (bots eots : Bool)
    (header : Option (BitVec 64)) {s : State} (h : Sound s) : Sound (stepAround act bots eots header s) := by
  unfold stepAround
  split
  · rename_i hm
    exact settleAround_sound ha ((stepCapstan_inner header (s := setMarkers bots eots s) hm).sound
      ((setInputs_act s _).sound h))
  · exact ha _ h

theorem bareStep_act (bots eots : Bool) (s : State) : Act s (bareStep bots eots s) := by
  unfold bareStep
  split
  · rename_i hm
    have h1 : Act s (stepCapstan none (setMarkers bots eots s)) :=
      (stepCapstan_inner none (s := setMarkers bots eots s) hm).act.after (setInputs_act s _)
    dsimp only
    split
    · rename_i hs
      refine Act.after (Inner.act ⟨(latchStall_same _).trans (inhibitController_same _), fun k => ?_⟩) h1
      rw [Bool.and_eq_true, Bool.not_eq_true'] at hs
      exact inhibitController_sound (latchStall_core hs.2 k)
    · exact h1
  · exact (Inner.refl s).act

theorem exhaustSeek_inner {s : State} (h : seekRunning s.motion = true) : Inner s (exhaustSeek s) := by
  have hm : s.motion.moving = true := by
    simp only [seekRunning, Bool.and_eq_true] at h; exact h.1
  exact handOver_inner ⟨fun _ => beginStop_runs _ _, fun hn => absurd (moving_runs hm) hn⟩

theorem clearStall_inner (s : State) : Inner s (clearStall s) := (Inner.refl s).setMotion rfl .rfl fun h => h

theorem setMarkers_act (b e : Bool) (s : State) : Act s (setMarkers b e s) := setInputs_act s _

theorem captureEnds_inner (k : Capture) (data : List Byte) (trailer : BitVec 32) (s : State) :
    Inner s (captureEnds k data trailer s) :=
  (limitsAfterResult_inner _).after ((onCapture_inner _ _ _).after
    ((Inner.refl s).setFramer (f := { s.framer with dataCrc := dataCrcReg data }) fun h => h))

theorem gapReached_inner (s : State) : Inner s (gapReached s) := by
  unfold gapReached
  repeat' split
  · exact .refl s
  · exact .refl s
  · exact (settle_inner _).after (blankMet_inner s)
  · exact (settle_inner _).after (blankBack_inner s)
  · exact .refl s

theorem strobeVerdict_inner (good : Bool) (s : State) : Inner s (strobeVerdict good s) := by
  unfold strobeVerdict
  split
  · exact (settle_inner _).after (onVerdict_inner _ s)
  · exact .refl s

theorem windowCloses_inner (s : State) : Inner s (windowCloses s) := by
  unfold windowCloses
  split
  · exact (settle_inner _).after (onVerdict_inner _ s)
  · exact .refl s

theorem endMarkEnds_inner (s : State) : Inner s (endMarkEnds s) := by
  unfold endMarkEnds
  repeat' split
  · exact (settle_inner _).after (endComplete_inner _ s)
  · exact .refl s
  · exact .refl s

theorem cartinChange_sound {act : State → State} (ha : ∀ u, Sound u → Sound (act u)) (how : Change) (v : Bool) {s : State}
    (h : Sound s) : Sound (cartinChange act how v s) := by
  unfold cartinChange
  split
  · exact (settle_inner _).sound (cartinAround_sound ha v ((setInputs_act s _).sound h))
  · exact ha _ ((setInputs_act s _).sound h)

/-- The same with nothing else at its instant: levels of the inputs may come. -/
theorem cartinChange_act (how : Change) (v : Bool) (s : State) : Act s (cartinChange id how v s) := by
  unfold cartinChange
  split
  · exact ((settle_inner _).after (followCartin_inner _ _)).act.after (setInputs_act s _)
  · exact setInputs_act s _

theorem wprotChange_act (how : Change) (v : Bool) (s : State) : Act s (wprotChange how v s) := by
  unfold wprotChange
  split
  · exact setInputs_act s _
  · exact setInputs_act s _

theorem healthChange_sound {act : State → State} (ha : ∀ u, Sound u → Sound (act u)) (how : Change) (input : HealthInput)
    (v : Bool) {s : State} (h : Sound s) : Sound (healthChange act how input v s) := by
  unfold healthChange
  split
  · exact (settle_inner _).sound (beforeRest_sound ha ((judge_inner _).sound ((setInputs_act s _).sound h)))
  · exact ha _ ((setInputs_act s _).sound h)

theorem inputAround_sound {act : State → State} (ha : ∀ u, Sound u → Sound (act u)) (how : Change) (line : LevelInput)
    (v : Bool) {s : State} (h : Sound s) : Sound (inputAround act how line v s) := by
  cases line with
  | health input => exact healthChange_sound ha how input v h
  | wprot => exact ha _ ((wprotChange_act how v s).sound h)
  | cartin bots eots => exact cartinChange_sound ha how v ((setInputs_act s _).sound h)

theorem bareInput_act (how : Change) (line : LevelInput) (v : Bool) (s : State) : Act s (bareInput how line v s) := by
  cases line with
  | health input =>
    unfold bareInput
    dsimp only
    split
    · exact (judged_inner _).act.after (setInputs_act s _)
    · exact setInputs_act s _
  | wprot => exact wprotChange_act how v s
  | cartin bots eots => exact (setInputs_act (setMarkers bots eots s) _).after (setInputs_act s _)

/-! ### The link -/

/-- R148: a new mask, judged at once, leaves a sound state. -/
theorem commitMask_sound (v : BitVec 16) {s : State} (h : Sound s) : Sound (commitMask v s) :=
  (settle_inner _).sound (judge_sound (s := { s with health := { s.health with mask := v.extractLsb' 0 6 } })
    ⟨h.1, h.2, h.3, h.4, faultBits_faults _, h.6, h.7, h.8⟩)

theorem commitControl_sound (v : BitVec 16) {s : State} (h : Sound s) : Sound (commitControl v s) := by
  have h1 : Sound { s with health := { s.health with control := v.extractLsb' 0 4 } } :=
    ⟨h.1, h.2, h.3, h.4, h.5, h.6, h.7, h.8, h.9⟩
  unfold commitControl
  dsimp only
  split
  · unfold lockoutSet
    split
    · unfold lockReaches
      split
      · exact h1
      · exact (settle_inner _).sound ((interrupt_inner _).sound ((onActive_inner _ _).sound h1))
    · split
      · exact h1
      · exact (pushUnsolicited_inner _ _).sound h1
  · split
    · unfold lockoutCleared
      split
      · exact h1
      · exact (pushUnsolicited_inner _ _).sound h1
    · exact h1

theorem commitSleepRequest_sound (v : BitVec 16) {s : State} (h : Sound s) : Sound (commitSleepRequest v s) := by
  unfold commitSleepRequest
  dsimp only
  repeat' split
  · exact (linkSourceSet_inner _).sound (h.setLink _)
  · exact (linkSourceClear_inner _).sound (h.setLink _)
  · exact h.setLink _

theorem commitPoke_sound (item : BitVec 5) (v : BitVec 16) {s : State} (h : Sound s) :
    Sound (commitPoke item v s) := by
  unfold commitPoke
  split
  · exact commitMask_sound _ h
  · exact commitControl_sound _ h
  · exact commitSleepRequest_sound _ h
  · exact h

theorem commitClear_sound (item : BitVec 5) {s : State} (h : Sound s) : Sound (commitClear item s) := by
  unfold commitClear
  split
  · exact ⟨h.1, h.2, h.3, h.4, h.5, h.6, h.7, h.8, h.9⟩
  · exact clearAction_sound h.core
  · exact h

theorem installPair_sound {s : State} (h : Sound s) : Sound (installPair s) := by
  unfold installPair
  split
  · exact h
  · exact (h.setLink _).setLink _
  · exact (h.setLink _).setLink _

theorem judgeFrame_sound {s : State} (h : Sound s) : Sound (judgeFrame s) := by
  unfold judgeFrame
  dsimp only
  repeat' split
  · exact h.setLink _
  · unfold commitAsleep
    split
    · exact wakeByLink_sound (((h.setLink _).setLink _).setLink _)
    · exact (h.setLink _).setLink _
  · have h1 := installPair_sound (s := clearLinkError s) (h.setLink _)
    unfold commitFrame
    split
    · exact commitPoke_sound _ _ h1
    · exact commitClear_sound _ h1
    · exact h1

/-! ### One instant -/

theorem eventAround_sound {act : State → State} (ha : ∀ u, Sound u → Sound (act u)) (b : Beside) {s : State} (h : Sound s) :
    Sound (eventAround b act s) := by
  cases b with
  | nothing => exact ha _ h
  | input line how high => exact inputAround_sound ha how line high h
  | step bots eots header => exact stepAround_sound ha bots eots header h

theorem bareEvent_act (b : Beside) (s : State) : Act s (bareEvent b s) := by
  cases b with
  | nothing => exact (Inner.refl s).act
  | input line how high => exact bareInput_act how line high s
  | step bots eots header => exact bareStep_act bots eots s

theorem commitAt_sound (deselect : Bool) {s : State} (h : Sound s) : Sound (commitAt deselect s) := by
  unfold commitAt
  split
  · exact judgeFrame_sound h
  · exact h

theorem lockArises_inner (b : Beside) (deselect : Bool) (s : State) : Inner s (lockArises b deselect s) := by
  unfold lockArises
  split
  · exact onActive_inner _ s
  · exact .refl s

theorem eventCommits_sound (b : Beside) (deselect waits : Bool) {act : State → State}
    (ha : ∀ u, Sound u → Sound (act u)) {s : State} (h : Sound s) : Sound (eventCommits b deselect waits act s) := by
  have h1 := eventAround_sound (act := fun u => commitAt deselect (act u))
    (fun u hu => commitAt_sound deselect (ha u hu)) b ((lockArises_inner b deselect s).sound h)
  unfold eventCommits
  dsimp only
  split
  · exact (settle_inner _).sound ((interrupt_inner _).sound h1)
  · exact h1

theorem accessBeside_sound (access : HostAccess) {s : State} (h : Sound s) : Sound (accessBeside access s) := by
  unfold accessBeside
  split
  · unfold csRead
    split
    · unfold dataReadBeside
      split
      · exact (h.setHost _).setHost _
      · exact drive_sound _ (((Inner.refl s).setBanks).sound h)
    · exact drive_sound _ h
  · unfold csWrite
    split
    · unfold dataWriteBeside
      split
      · exact h.setHost _
      · exact ((Inner.refl s).setBanks).sound h
    · exact h
  · exact hostAccess_sound _ h

theorem accessFirst_sound (access : HostAccess) (b : Beside) (deselect : Bool) {s : State} (h : Sound s) :
    Sound (accessFirst access b deselect s) := by
  unfold accessFirst
  split
  · exact (reflag_inner _ _ _).sound (hostAccess_sound access h)
  · exact hostAccess_sound access h

theorem accessAtInstant_sound (access : HostAccess) (b : Beside) (deselect : Bool) {s : State} (h : Sound s) :
    Sound (accessAtInstant access b deselect s) := by
  unfold accessAtInstant
  split
  · exact eventCommits_sound b deselect false (fun _ k => k) (accessFirst_sound access b deselect h)
  · exact eventCommits_sound b deselect false (fun _ k => accessBeside_sound access k) h
  · exact hostAccess_sound access (eventCommits_sound b deselect false (fun _ k => k) h)

theorem idleStopAtInstant_sound (c : Cause) (code : Byte) (b : Beside) (deselect : Bool) {s : State} (h : Sound s) :
    Sound (idleStopAtInstant c code b deselect s) :=
  eventCommits_sound b deselect false (fun _ k => k) ((idleStopBefore_inner _ c code s).sound h)

theorem haltAtInstant_sound (b : Beside) (deselect : Bool) {s : State} (h : Sound s) :
    Sound (haltAtInstant b deselect s) := by
  unfold haltAtInstant
  repeat' split
  · exact idleStopAtInstant_sound _ _ b deselect h
  · exact eventCommits_sound b deselect false (fun _ k => k) h
  · exact eventCommits_sound b deselect true (fun _ k => k) (((Inner.refl s).setSeq
      (q := { s.seq with haltPending := true }) fun k => ⟨k.1, k.2⟩).sound h)

theorem emergencyAtInstant_sound (b : Beside) (deselect : Bool) {s : State} (h : Sound s) :
    Sound (emergencyAtInstant b deselect s) := by
  unfold emergencyAtInstant
  split
  · exact idleStopAtInstant_sound _ _ b deselect h
  · exact (settle_inner _).sound (eventCommits_sound b deselect false (fun u k => (stopActs_inner u).sound k) h)

theorem resetAtInstant_sound (b : Beside) (deselect : Bool) {s : State} (h : Sound s) :
    Sound (resetAtInstant b deselect s) := by
  have h1 := (resetReportBefore_inner (commitAt deselect) .deviceReset _).sound
    (deviceResetActs_sound ((bareEvent_act b s).sound h))
  exact (judgeSources_inner _).sound (((Inner.refl _).setReports (fun _ => h1.2)).sound (commitAt_sound deselect h1))

theorem instantWith_sound (host : Option HostAccess) (b : Beside) (deselect : Bool) {s : State} (h : Sound s) :
    Sound (instantWith host b deselect s) := by
  unfold instantWith
  repeat' split
  · exact eventCommits_sound b deselect false (fun _ k => k) h
  · unfold immediateAtInstant
    repeat' split
    · exact haltAtInstant_sound b deselect h
    · exact emergencyAtInstant_sound b deselect h
    · exact resetAtInstant_sound b deselect h
  · exact accessAtInstant_sound _ b deselect h
  · exact accessAtInstant_sound _ b deselect h

/-- Whatever falls at one instant leaves a sound state. -/
theorem instant_sound (host : Option HostAccess) (b : Beside) (deselect : Bool) {s : State} (h : Sound s) :
    Sound (instant host b deselect s) := by
  unfold instant
  repeat' split
  · exact instantWith_sound host b deselect h
  · exact (bareEvent_act b _).sound (instantWith_sound host _ deselect h)
  · exact instantWith_sound host _ deselect ((bareEvent_act b s).sound h)

/-! ### Frames -/

theorem deselectFrame_sound (host : Option HostAccess) (b : Beside) {s : State} (h : Sound s) :
    Sound (deselectFrame host b s) := instant_sound host b true (h.setLink _)

theorem clockFrame_sound (w : Sent) (n : Nat) (high : Bool) {s : State} (h : Sound s) :
    Sound (clockFrame w n high s) := by
  unfold clockFrame clockEdges
  split
  · exact (((h.setLink _).setLink _).setLink _).setLink _
  · exact (h.setLink _).setLink _

theorem openFrame_sound (w : Sent) (n : Nat) (high : Bool) {s : State} (h : Sound s) :
    Sound (openFrame w n high s) := by
  refine clockFrame_sound w n high
    (Sound.setLink (s := if s.link.frame.selected then deselectFrame none .nothing s else s) ?_ _)
  split
  · exact deselectFrame_sound _ _ h
  · exact h

theorem closeFrame_sound (w : Sent) (f : FrameBits) {s : State} (h : Sound s) : Sound (closeFrame w f s) := by
  unfold closeFrame
  split
  · exact deselectFrame_sound _ _ (clockFrame_sound w _ _ h)
  · exact instant_sound f.host f.beside false h

theorem linkFrame_sound (w : Sent) (f : FrameBits) {s : State} (h : Sound s) : Sound (linkFrame w f s) := by
  unfold linkFrame
  split
  · exact closeFrame_sound w f (openFrame_sound w _ _ h)
  · exact openFrame_sound w _ _ h
  · unfold continueFrame
    split
    · exact clockFrame_sound w _ _ h
    · exact h
  · exact closeFrame_sound w f h

end Sys2Proof.Machine
end

