-- ==== Sys2Proof/Laws/Acts.lean ====
section
/-! SUPPORT. What the shared acts leave: holds, cut captures, the health's reaction, endings. -/

namespace Sys2Proof.Machine

/-- R147, R148: no fault present and no unmasked condition: none becomes present. -/
theorem presentFor_zero {h : Health} {c : BitVec 6} (h1 : h.present = 0#6) (h2 : c &&& ~~~h.mask = 0#6) : presentFor h c = 0#6 := by
  unfold presentFor
  rw [h1]
  have : (c &&& staticFaults ||| (0#6 ||| c) &&& latchedFaults) = c := by
    simp only [staticFaults, latchedFaults]
    clear h1 h2; revert c; decide
  rw [this, h2]

/-- R147 to R151: a healthy part is left as it is. -/
theorem judge_healthy {s : State} (h : Healthy s) (hr : s.motion.state ≠ .inhibited) : judge s = s := by
  obtain ⟨h1, h2⟩ := h
  have hp := presentFor_zero h1 h2
  have hf : faultBits s = s := by
    unfold faultBits; simp only [hp]
    have : s.health.recorded ||| 0#6 = s.health.recorded := by simp
    rw [this, ← h1]
  have hm : s.health.motionFault = false := by simp [Health.motionFault, h1]
  have hl : liftInhibit s.motion = s.motion := by simp [liftInhibit, hr]
  have hw : s.health.writeFault = false := by simp [Health.writeFault, h1]
  have hi : inhibitController s = s := by
    unfold inhibitController; simp [hm, hl]
  have ha : applyInhibits s = s := by
    unfold applyInhibits; simp [hm, hi, hw]
  unfold judge judgeAfter
  simp only [hf, ha, id]
  have : s.health.recorded &&& ~~~s.health.recorded = 0#6 := by simp
  rw [this]
  split
  · rfl
  · simp [onsetReports]

/-- R147: the bits of a healthy part stay. -/
theorem faultBits_healthy {s : State} (h : Healthy s) : faultBits s = s := by
  unfold faultBits; simp only [presentFor_zero h.1 h.2]
  have : s.health.recorded ||| 0#6 = s.health.recorded := by simp
  rw [this, ← h.1]

/-- R151: no inhibit and none to lift. -/
theorem inhibitController_id {s : State} (h1 : s.health.motionFault = false) (h2 : s.motion.state ≠ .inhibited) : inhibitController s = s := by
  have hl : liftInhibit s.motion = s.motion := by simp [liftInhibit, h2]
  unfold inhibitController; simp [h1, hl]

/-- R154: nothing to clear. -/
theorem autoClear_id (k : OrderKind) {s : State} (h1 : s.health.present = 0#6) (h2 : s.motion.state ≠ .inhibited) : autoClear k s = s := by
  unfold autoClear
  split
  · simp only
    rw [inhibitController_id]
    · simp [h1]; rw [← h1]
    · simp [Health.motionFault, h1]
    · exact h2
  · rfl

/-- R154: nothing to clear at a departure. -/
theorem autoClearEntry_id (e : QueueEntry) {s : State} (h1 : s.health.present = 0#6) (h2 : s.motion.state ≠ .inhibited) : autoClearEntry e s = s := by
  unfold autoClearEntry; split
  · exact autoClear_id _ h1 h2
  · rfl

/-- R29: the start checks read the place and the health only. -/
theorem startCheck_congr {s t : State} (c : Setup) (e : QueueEntry) (h1 : t.place = s.place) (h2 : t.health = s.health) :
    startCheck t c e = startCheck s c e := by
  unfold startCheck
  split
  · rfl
  · simp [knownCheck, stateOk, inhibited, writeForbidden, boundsOk, orderPart, shownPart, h1, h2]

/-- R84, R85: the state a hold leaves. -/
theorem holdMotion_state (b : Bool) (m : Motion) : (holdMotion b m).motion.state = if b then .inhibited else if m.state == .inhibited then .inhibited else .stopped := by
  unfold holdMotion
  simp only
  split
  · rfl
  · split <;> rfl

/-- R84: nothing moves after a hold. -/
theorem hold_moving (b : Bool) (s : State) : (hold b s).motion.moving = false := by
  rw [hold_motion]
  unfold Motion.moving
  rw [holdMotion_state]
  cases b <;> by_cases h : s.motion.state == .inhibited <;> simp [h]

/-- All but the banks, the Framer and the levels of the inputs. -/
structure SameBut (s t : State) : Prop where
  host : t.host = s.host
  setup : t.setup = s.setup
  seq : t.seq = s.seq
  reports : t.reports = s.reports
  motion : t.motion = s.motion
  events : t.events = s.events
  health : t.health = s.health
  link : t.link = s.link
  power : t.power = s.power
  place : t.place = s.place
  rstLow : t.inputs.rstLow = s.inputs.rstLow

/-- R65: a capture cut short touches the Framer and the banks only. -/
theorem cut_same (s : State) : SameBut s (cutCapture s) := by
  unfold cutCapture; split <;> exact ⟨rfl, rfl, rfl, rfl, rfl, rfl, rfl, rfl, rfl, rfl, rfl⟩

/-- R65: what a capture cut short leaves of the Framer. -/
theorem cut_framer (s : State) : (cutCapture s).framer.gate = s.framer.gate ∧ (cutCapture s).framer.writer = s.framer.writer ∧ (cutCapture s).framer.capture = none := by
  unfold cutCapture; split
  · rename_i h; exact ⟨rfl, rfl, h⟩
  · exact ⟨rfl, rfl, rfl⟩

/-- R61: a dropped gate touches the Framer and the WRFLT level only. -/
theorem drop_same (s : State) : SameBut s (dropGate s) := ⟨rfl, rfl, rfl, rfl, rfl, rfl, rfl, rfl, rfl, rfl, rfl⟩

/-- R84: what a hold of a moving transport leaves. -/
theorem hold_form {s : State} (b : Bool) (hm : s.motion.moving = true) (he : s.events = []) : ∃ o : Nat,
    hold b s = cutCapture (dropGate { s with motion := (holdMotion b s.motion).motion, events := [.stoppedAt s.motion.tick o true], place := { s.place with position := none } }) ∧
    (holdMotion b s.motion).motion.state = (if b then .inhibited else if s.motion.state == .inhibited then .inhibited else .stopped) ∧ (holdMotion b s.motion).motion.rate = 0 ∧ (holdMotion b s.motion).motion.refValid = false ∧ (holdMotion b s.motion).motion.settling = false ∧ (holdMotion b s.motion).motion.tick = s.motion.tick := by
  unfold hold; simp only [hm, if_true]
  unfold handOver holdMotion
  simp only [hm, if_true, he, List.nil_append]
  refine ⟨_, rfl, ?_, ?_, ?_, ?_, ?_⟩ <;> trivial

/-- R49: the last-pushed record. -/
theorem push_last (q : Reports) (r : Report) : (q.push r).lastCause = r.cause ∧ (q.push r).lastTag = r.tag := by
  unfold Reports.push; split <;> exact ⟨rfl, rfl⟩

/-- R33: the ending up to the emptied order slot. -/
def preFin (s : State) (a : Active) : State :=
  let s1 := endCartridge a (takeFinal a (endRequest s))
  clearActive (pushReport (endReport (endDiscard a s1) a (discardedBy a s1)) (endDiscard a s1))

/-- R33: an ending, before the health and the inhibits are judged again. -/
theorem finish_eq {s : State} {a : Active} (ha : s.seq.active = some a) : finish s = inhibitController (faultBits (preFin s a)) := by
  unfold finish; rw [ha]; rfl

/-- R34: a discard keeps the active order. -/
theorem endDiscard_seq (a : Active) (s : State) : (endDiscard a s).seq.active = s.seq.active := by
  unfold endDiscard; split <;> rfl

/-- R33: an ending at rest in a healthy part, of an order without a final position. -/
theorem finish_rest {s : State} {a : Active} (ha : s.seq.active = some a) (hm : s.motion.state = .stopped) (hs : s.motion.settling = false)
    (hc : s.place.cart ≠ .loading) (hf : a.final = none) (hh : Healthy s) (hu : ¬ (a.kind = some .unload ∧ (endCause a).cause = .success)) :
    finish s = clearActive (pushReport (endReport (endDiscard a s) a (discardedBy a s)) (endDiscard a s)) := by
  unfold finish; rw [ha]
  simp only
  have e1 : endRequest s = s := by unfold endRequest; rw [if_neg]; simp [Motion.waitingAtRest, hm, hs]
  have e2 : takeFinal a s = s := by unfold takeFinal; rw [hf]
  have e3 : endCartridge a s = s := by unfold endCartridge; rw [if_neg hc, if_neg hu]
  rw [e1, e2, e3]
  have hh' : Healthy (clearActive (pushReport (endReport (endDiscard a s) a (discardedBy a s)) (endDiscard a s))) := by
    unfold endDiscard; split <;> exact hh
  rw [faultBits_healthy hh', inhibitController_id]
  · have := hh'.1; unfold Health.motionFault; rw [this]; decide
  · have : (clearActive (pushReport (endReport (endDiscard a s) a (discardedBy a s)) (endDiscard a s))).motion = s.motion := by
      unfold endDiscard; split <;> rfl
    rw [this, hm]; decide

/-- R52: a cause raised for the active order. -/
theorem raise_some {s : State} {a : Active} (c : Cause) (ha : s.seq.active = some a) : raise c s = { s with seq := { s.seq with active := some (if outranks c a.cause then { a with cause := some { cause := c, stage := a.stage } } else a) } } := by
  unfold raise onActive; rw [ha]; rfl

/-- R38: no stop waits. -/
theorem raiseStop_none {s : State} {a : Active} (ha : s.seq.active = some a) (h : stopWanted s a = false) : raiseStop s = s := by
  unfold raiseStop; rw [ha]; simp [h]

/-- The active order changed. -/
theorem onActive_some {s : State} {a : Active} (f : Active → Active) (ha : s.seq.active = some a) : onActive f s = { s with seq := { s.seq with active := some (f a) } } := by
  unfold onActive; rw [ha]; rfl

/-- R56: FAULT ONSET reports change the Report Queue only. -/
theorem onset_eq (n : BitVec 6) (s : State) : onsetReports n s = { s with reports := (onsetReports n s).reports } := by
  have : ∀ (l : List Nat) (t : State), t = { s with reports := t.reports } →
     (l.foldl (fun t i => if n.getLsbD i then pushUnsolicited .faultOnset t else t) t) = { s with reports := (l.foldl (fun t i => if n.getLsbD i then pushUnsolicited .faultOnset t else t) t).reports } := by
    intro l; induction l with
    | nil => intro t h; exact h
    | cons x l ih =>
      intro t h
      simp only [List.foldl]
      apply ih
      split
      · rw [h]; rfl
      · exact h
  exact this _ s rfl

/-- R84: what a hold leaves of the rest of the part. -/
theorem hold_rest (b : Bool) (s : State) : (hold b s).health = s.health ∧ (hold b s).seq = s.seq ∧ (hold b s).link = s.link ∧ ((hold b s).framer.gate = true → s.framer.gate = true) ∧ ((hold b s).inputs.rstLow = s.inputs.rstLow) := by
  unfold hold
  generalize hx : handOver (holdMotion b s.motion) s = x
  have x1 : x.health = s.health := by rw [← hx]; rfl
  have x2 : x.seq = s.seq := by rw [← hx]; rfl
  have x3 : x.link = s.link := by rw [← hx]; rfl
  have x4 : x.framer = s.framer := by rw [← hx]; rfl
  have x5 : x.inputs = s.inputs := by rw [← hx]; rfl
  simp only
  split
  · refine ⟨(cut_same _).health.trans x1, (cut_same _).seq.trans x2, (cut_same _).link.trans x3, ?_, (cut_same _).rstLow.trans ((drop_same _).rstLow.trans (congrArg Inputs.rstLow x5))⟩
    rw [(cut_framer (dropGate x)).1]
    intro h; cases h
  · exact ⟨x1, x2, x3, by rw [x4]; exact id, by rw [x5]⟩

/-- R151: what the inhibit leaves of the rest of the part. -/
theorem inh_health (s : State) : (inhibitController s).health = s.health ∧ (inhibitController s).seq = s.seq ∧ (inhibitController s).link = s.link ∧ ((inhibitController s).framer.gate = true → s.framer.gate = true) ∧ ((inhibitController s).inputs.rstLow = s.inputs.rstLow) := by
  unfold inhibitController
  split
  · split
    · exact ⟨rfl, rfl, rfl, id, rfl⟩
    · exact hold_rest true s
  · exact ⟨rfl, rfl, rfl, id, rfl⟩

/-- R147: the reaction of an idle part. -/
theorem judge_idle {s : State} (ha : s.seq.active = none) (hg : s.framer.gate = false) (hr : s.inputs.rstLow = false) :
   judge s = onsetReports ((faultBits s).health.recorded &&& ~~~s.health.recorded) (inhibitController (faultBits s)) := by
  unfold judge judgeAfter
  simp only [id, ha, hr, Option.isSome, Bool.or_self, Bool.false_eq_true, if_false]
  congr 1
  unfold applyInhibits
  have ha' : (faultBits s).seq.active = none := ha
  simp only [ha', Option.isSome, Bool.false_eq_true, if_false, ite_self]
  rw [if_neg]
  intro h
  simp at h
  have := (inh_health (faultBits s)).2.2.2.1 h.2
  have h2 : (faultBits s).framer.gate = s.framer.gate := rfl
  rw [h2, hg] at this; cases this

/-- R152: a clear action in full. -/
theorem clear_form {s : State} (hs : Sound s) : ∃ p, p = s.health.present &&& (staticFaults ||| (latchedFaults &&& conditions s)) ∧
   clearAction s = { s with
      health := { s.health with present := p, recorded := s.health.recorded &&& p }
      motion := { s.motion with state := if s.motion.state = .inhibited ∧ ({ s.health with present := p } : Health).motionFault = false then .stopped else s.motion.state } } := by
  refine ⟨_, rfl, ?_⟩
  unfold clearAction
  have hi := hs.inhibit
  simp only
  generalize hp : s.health.present &&& (staticFaults ||| (latchedFaults &&& conditions s)) = p
  unfold inhibitController
  by_cases hf : ({ s.health with present := p, recorded := s.health.recorded &&& p } : Health).motionFault = true
  · have hf2 : ({ s.health with present := p } : Health).motionFault = true := hf
    have h0 : s.health.motionFault = true := by
      have : ∀ a b : BitVec 6, a &&& motionFaults = 0#6 → a &&& b &&& motionFaults = 0#6 := by
        intro a b h
        have : a &&& b &&& motionFaults = (a &&& motionFaults) &&& b := by ac_rfl
        rw [this, h]; simp
      simp [Health.motionFault] at hf ⊢
      intro h; apply hf; rw [← hp]; exact this _ _ h
    have hin : s.motion.state = .inhibited := hi.2 h0
    simp only [hf, if_true, hin, hf2]
    simp [← hin]
  · have hf2 : ({ s.health with present := p } : Health).motionFault = false := Bool.eq_false_iff.2 hf
    have hf3 : ({ s.health with present := p, recorded := s.health.recorded &&& p } : Health).motionFault = false := hf2
    simp only [hf3, hf2]
    unfold liftInhibit
    by_cases h : s.motion.state = .inhibited
    · simp [h]
    · simp [h]

end Sys2Proof.Machine
end

