-- ==== Sys2Proof/Laws/Instants.lean ====
section
/-! SUPPORT. What falls at one instant (log 3): nothing else, a commit alone, a host access alone. -/

namespace Sys2Proof.Machine

@[simp] theorem beforeRest_id (s : State) : beforeRest id s = s := by simp [beforeRest]

/-- With nothing else at its instant an event of a step settles. -/
@[simp] theorem settleAround_id (s : State) : settleAround id s = settle s := by
  have h : ∀ n s, settleAroundFor id n s = settleFor n s := by
    intro n
    induction n with
    | zero => intro s; rfl
    | succ n ih =>
      intro s
      unfold settleAroundFor
      split
      · rfl
      · rename_i e rest he
        split
        · rw [beforeRest_id]
        · rw [ih, settleFor, settleStep, he]
  exact h _ s

/-- With nothing else at its instant a step hands its events and settles. -/
theorem stepAround_id (bots eots : Bool) (header : Option (BitVec 64)) (s : State) :
    stepAround id bots eots header s =
      if s.motion.moving then settle (stepCapstan header (setMarkers bots eots s)) else s := by
  rw [stepAround, settleAround_id]; rfl

/-- R46: with nothing else at its instant a report shows the state as it stands. -/
@[simp] theorem cleared_id (s : State) : cleared id s = s := by simp [cleared]

@[simp] theorem pushBefore_id (c : Cause) (s : State) : pushBefore id c s = pushUnsolicited c s := by
  simp [pushBefore, pushUnsolicited]

@[simp] theorem resetReportBefore_id (c : Cause) (s : State) : resetReportBefore id c s = resetReport c s := by
  simp [resetReportBefore, resetReport]

@[simp] theorem idleStopBefore_id (c : Cause) (code : Byte) (s : State) : idleStopBefore id c code s = idleStop c code s := by
  simp [idleStopBefore, idleStop]

/-- R94: with nothing else at its instant the cartridge follows its level. -/
theorem followCartin_eq (present : Bool) (s : State) :
    followCartin present s = if present then insertCartridge id s else removeCartridge id s := by
  simp [followCartin, cartinAround]

@[simp] theorem commitAt_false (s : State) : commitAt false s = s := rfl

@[simp] theorem lockArises_alone (b : Beside) (s : State) : lockArises b false s = s := rfl

@[simp] theorem lockArises_nothing (deselect : Bool) (s : State) : lockArises .nothing deselect s = s := by
  simp [lockArises, lockFalls]

/-- An event with neither a commit nor a waiting stop at its instant. -/
@[simp] theorem eventCommits_alone (b : Beside) (act : State → State) (s : State) :
    eventCommits b false false act s = eventAround b act s := rfl

/-- R168: a commit alone, after what comes before it. -/
@[simp] theorem eventCommits_nothing (s : State) : eventCommits .nothing true false id s = judgeFrame s := by
  have h : lockFalls .nothing true s = false := by simp [lockFalls]
  simp [eventCommits, h, eventAround, commitAt]

@[simp] theorem instantWith_none (b : Beside) (deselect : Bool) (s : State) :
    instantWith none b deselect s = eventCommits b deselect false id s := rfl

/-- R168: an access that is no immediate order has its turn. -/
theorem instantWith_plain {access : HostAccess} (b : Beside) (deselect : Bool) (s : State)
    (hp : plainAccess access = true) :
    instantWith (some access) b deselect s = accessAtInstant access b deselect s := by
  unfold instantWith
  split
  · contradiction
  · rename_i heq
    injection heq with heq
    subst heq
    have : ∀ v : Byte, plainAccess (.write 1 v) = true → immediateCode v = false := by
      intro v hv
      have hv : (v != 0xE1 && v != 0xE2 && v != 0xEA) = true := hv
      simp at hv
      simp [immediateCode, hv.1.1, hv.1.2, hv.2]
    simp [this _ hp]
  · rename_i heq; injection heq with heq; rw [heq]

/-- R40, R53: an immediate order competes with the event and the commit. -/
theorem instantWith_immediate {code : Byte} (b : Beside) (deselect : Bool) {s : State} (hp : portActive s = true)
    (hc : immediateCode code = true) :
    instantWith (some (.write 1 code)) b deselect s = immediateAtInstant code b deselect s := by
  simp [instantWith, hp, hc]

/-- A host access with neither an event nor a commit of its instant. -/
@[simp] theorem accessAtInstant_nothing (access : HostAccess) (s : State) :
    accessAtInstant access .nothing false s = hostAccess access s := rfl

/-- R46: with no clear action at its deselect a host access is as alone. -/
theorem accessFirst_unclear {deselect : Bool} {s : State} (access : HostAccess) (b : Beside)
    (h : deselect = false ∨ clearsFaults s = false) : accessFirst access b deselect s = hostAccess access s := by
  rcases h with h | h <;> simp [accessFirst, h]

@[simp] theorem accessFirst_alone (access : HostAccess) (b : Beside) (s : State) :
    accessFirst access b false s = hostAccess access s := accessFirst_unclear access b (.inl rfl)

/-- R46: a host access before a commit alone. -/
theorem accessFirst_commit (access : HostAccess) (s : State) :
    accessFirst access .nothing true s =
      if clearsFaults s then reflag judgeFrame (keptReports access s) (hostAccess access s)
      else hostAccess access s := by
  have h : eventCommits .nothing true false id = judgeFrame := funext eventCommits_nothing
  simp [accessFirst, h]

/-- R168: a host access that is no immediate order comes before a commit alone. -/
@[simp] theorem accessAtInstant_commit (access : HostAccess) (s : State) :
    accessAtInstant access .nothing true s = judgeFrame (accessFirst access .nothing true s) := by
  show eventCommits .nothing true false id _ = _
  rw [eventCommits_nothing]

@[simp] theorem instant_nothing (host : Option HostAccess) (deselect : Bool) (s : State) :
    instant host .nothing deselect s = instantWith host .nothing deselect s := rfl

/-- An event without a reaction only sets its level. -/
theorem eventAround_still {b : Beside} {s : State} (h : reacts b s = false) : eventAround b id s = bareEvent b s := by
  cases b with
  | nothing => rfl
  | input line how v =>
    cases line with
    | health i =>
      have : reaches how s = false := by simpa [reacts] using h
      simp [eventAround, inputAround, healthChange, bareEvent, bareInput, this]
    | wprot => rfl
    | cartin x y =>
      have : reaches how s = false := by simpa [reacts] using h
      simp only [eventAround, inputAround, cartinChange, bareEvent, bareInput, show reaches how (setMarkers x y s) = false from this,
        this]
      rfl
  | step x y z =>
    have : s.motion.moving = false := by simpa [reacts] using h
    simp [eventAround, stepAround, bareEvent, bareStep, this]

/-- An event with nothing else at its instant. -/
theorem instant_none (b : Beside) (s : State) : instant none b false s = eventAround b id s := by
  unfold instant
  split
  · rfl
  · rename_i h
    rw [eventAround_still (by simpa using h)]
    split <;> rfl

/-- A host access that is no immediate order takes its turn beside any event. -/
theorem instant_plain {access : HostAccess} (b : Beside) (s : State) (hp : plainAccess access = true) :
    instant (some access) b false s =
      match instantTurn b access s with
      | .before => instant none b false (hostAccess access s)
      | .between => eventAround b (accessBeside access) s
      | .after => hostAccess access (instant none b false s) := by
  rw [instant_none, instant_none]
  unfold instant instantTurn
  rw [instantWith_plain b false s hp, instantWith_plain .nothing false s hp, instantWith_plain .nothing false _ hp]
  by_cases h : reacts b s = true
  · simp only [h, if_true, accessAtInstant]
    cases accessTurn b access s <;> rfl
  · have h : reacts b s = false := by simpa using h
    simp only [h, Bool.false_eq_true, if_false, accessAtInstant_nothing, eventAround_still h]
    by_cases ht : changesTab b = true
    · have h2 : reacts b (hostAccess access s) = false := by
        unfold changesTab at ht
        split at ht
        · simp [reacts]
        · cases ht
      simp only [ht, if_true, eventAround_still h2]
    · simp only [ht]; rfl

/-- R5: an inactive port takes no write. -/
theorem hostAccess_inactive (addr : BitVec 3) (v : Byte) {s : State} (h : portActive s = false) :
    hostAccess (.write addr v) s = s := by simp [hostAccess, csWrite, h]

end Sys2Proof.Machine
end

