-- ==== Sys2Proof/Laws/State.lean ====
section
/-! SUPPORT. What each primitive update leaves and writes, field by field, so that no later proof unfolds a record
update. -/

namespace Sys2Proof.Machine

@[simp] theorem drive_pending (v : Byte) (s : State) : (drive v s).pending = s.pending := rfl
@[simp] theorem drive_host (v : Byte) (s : State) : (drive v s).host = { s.host with dataOut := v } := rfl
@[simp] theorem drive_setup (v : Byte) (s : State) : (drive v s).setup = s.setup := rfl
@[simp] theorem drive_seq (v : Byte) (s : State) : (drive v s).seq = s.seq := rfl
@[simp] theorem drive_reports (v : Byte) (s : State) : (drive v s).reports = s.reports := rfl
@[simp] theorem drive_banks (v : Byte) (s : State) : (drive v s).banks = s.banks := rfl
@[simp] theorem drive_motion (v : Byte) (s : State) : (drive v s).motion = s.motion := rfl
@[simp] theorem drive_events (v : Byte) (s : State) : (drive v s).events = s.events := rfl
@[simp] theorem drive_framer (v : Byte) (s : State) : (drive v s).framer = s.framer := rfl
@[simp] theorem drive_place (v : Byte) (s : State) : (drive v s).place = s.place := rfl
@[simp] theorem drive_health (v : Byte) (s : State) : (drive v s).health = s.health := rfl
@[simp] theorem drive_inputs (v : Byte) (s : State) : (drive v s).inputs = s.inputs := rfl
@[simp] theorem drive_link (v : Byte) (s : State) : (drive v s).link = s.link := rfl
@[simp] theorem drive_power (v : Byte) (s : State) : (drive v s).power = s.power := rfl

@[simp] theorem setDataError_pending (s : State) : (setDataError s).pending = s.pending := rfl
@[simp] theorem setDataError_host (s : State) : (setDataError s).host = { s.host with dataError := true } := rfl
@[simp] theorem setDataError_setup (s : State) : (setDataError s).setup = s.setup := rfl
@[simp] theorem setDataError_seq (s : State) : (setDataError s).seq = s.seq := rfl
@[simp] theorem setDataError_reports (s : State) : (setDataError s).reports = s.reports := rfl
@[simp] theorem setDataError_banks (s : State) : (setDataError s).banks = s.banks := rfl
@[simp] theorem setDataError_motion (s : State) : (setDataError s).motion = s.motion := rfl
@[simp] theorem setDataError_events (s : State) : (setDataError s).events = s.events := rfl
@[simp] theorem setDataError_framer (s : State) : (setDataError s).framer = s.framer := rfl
@[simp] theorem setDataError_place (s : State) : (setDataError s).place = s.place := rfl
@[simp] theorem setDataError_health (s : State) : (setDataError s).health = s.health := rfl
@[simp] theorem setDataError_inputs (s : State) : (setDataError s).inputs = s.inputs := rfl
@[simp] theorem setDataError_link (s : State) : (setDataError s).link = s.link := rfl
@[simp] theorem setDataError_power (s : State) : (setDataError s).power = s.power := rfl

@[simp] theorem setSetupError_pending (index : Byte) (s : State) : (setSetupError index s).pending = s.pending := rfl
@[simp] theorem setSetupError_host (index : Byte) (s : State) :
    (setSetupError index s).host = { s.host with setupError := true, lastSetupError := index } := rfl
@[simp] theorem setSetupError_setup (index : Byte) (s : State) : (setSetupError index s).setup = s.setup := rfl
@[simp] theorem setSetupError_seq (index : Byte) (s : State) : (setSetupError index s).seq = s.seq := rfl
@[simp] theorem setSetupError_reports (index : Byte) (s : State) : (setSetupError index s).reports = s.reports := rfl
@[simp] theorem setSetupError_banks (index : Byte) (s : State) : (setSetupError index s).banks = s.banks := rfl
@[simp] theorem setSetupError_motion (index : Byte) (s : State) : (setSetupError index s).motion = s.motion := rfl
@[simp] theorem setSetupError_events (index : Byte) (s : State) : (setSetupError index s).events = s.events := rfl
@[simp] theorem setSetupError_framer (index : Byte) (s : State) : (setSetupError index s).framer = s.framer := rfl
@[simp] theorem setSetupError_place (index : Byte) (s : State) : (setSetupError index s).place = s.place := rfl
@[simp] theorem setSetupError_health (index : Byte) (s : State) : (setSetupError index s).health = s.health := rfl
@[simp] theorem setSetupError_inputs (index : Byte) (s : State) : (setSetupError index s).inputs = s.inputs := rfl
@[simp] theorem setSetupError_link (index : Byte) (s : State) : (setSetupError index s).link = s.link := rfl
@[simp] theorem setSetupError_power (index : Byte) (s : State) : (setSetupError index s).power = s.power := rfl

@[simp] theorem pushReport_pending (r : Report) (s : State) : (pushReport r s).pending = s.pending := rfl
@[simp] theorem pushReport_host (r : Report) (s : State) : (pushReport r s).host = s.host := rfl
@[simp] theorem pushReport_setup (r : Report) (s : State) : (pushReport r s).setup = s.setup := rfl
@[simp] theorem pushReport_seq (r : Report) (s : State) : (pushReport r s).seq = s.seq := rfl
@[simp] theorem pushReport_reports (r : Report) (s : State) : (pushReport r s).reports = s.reports.push r := rfl
@[simp] theorem pushReport_banks (r : Report) (s : State) : (pushReport r s).banks = s.banks := rfl
@[simp] theorem pushReport_motion (r : Report) (s : State) : (pushReport r s).motion = s.motion := rfl
@[simp] theorem pushReport_events (r : Report) (s : State) : (pushReport r s).events = s.events := rfl
@[simp] theorem pushReport_framer (r : Report) (s : State) : (pushReport r s).framer = s.framer := rfl
@[simp] theorem pushReport_place (r : Report) (s : State) : (pushReport r s).place = s.place := rfl
@[simp] theorem pushReport_health (r : Report) (s : State) : (pushReport r s).health = s.health := rfl
@[simp] theorem pushReport_inputs (r : Report) (s : State) : (pushReport r s).inputs = s.inputs := rfl
@[simp] theorem pushReport_link (r : Report) (s : State) : (pushReport r s).link = s.link := rfl
@[simp] theorem pushReport_power (r : Report) (s : State) : (pushReport r s).power = s.power := rfl

@[simp] theorem pushUnsolicited_pending (cause : Cause) (s : State) :
    (pushUnsolicited cause s).pending = s.pending := rfl
@[simp] theorem pushUnsolicited_host (cause : Cause) (s : State) : (pushUnsolicited cause s).host = s.host := rfl
@[simp] theorem pushUnsolicited_setup (cause : Cause) (s : State) : (pushUnsolicited cause s).setup = s.setup := rfl
@[simp] theorem pushUnsolicited_seq (cause : Cause) (s : State) : (pushUnsolicited cause s).seq = s.seq := rfl
@[simp] theorem pushUnsolicited_reports (cause : Cause) (s : State) :
    (pushUnsolicited cause s).reports = s.reports.push (baseReport cause s) := rfl
@[simp] theorem pushUnsolicited_banks (cause : Cause) (s : State) : (pushUnsolicited cause s).banks = s.banks := rfl
@[simp] theorem pushUnsolicited_motion (cause : Cause) (s : State) :
    (pushUnsolicited cause s).motion = s.motion := rfl
@[simp] theorem pushUnsolicited_events (cause : Cause) (s : State) :
    (pushUnsolicited cause s).events = s.events := rfl
@[simp] theorem pushUnsolicited_framer (cause : Cause) (s : State) :
    (pushUnsolicited cause s).framer = s.framer := rfl
@[simp] theorem pushUnsolicited_place (cause : Cause) (s : State) : (pushUnsolicited cause s).place = s.place := rfl
@[simp] theorem pushUnsolicited_health (cause : Cause) (s : State) :
    (pushUnsolicited cause s).health = s.health := rfl
@[simp] theorem pushUnsolicited_inputs (cause : Cause) (s : State) :
    (pushUnsolicited cause s).inputs = s.inputs := rfl
@[simp] theorem pushUnsolicited_link (cause : Cause) (s : State) : (pushUnsolicited cause s).link = s.link := rfl
@[simp] theorem pushUnsolicited_power (cause : Cause) (s : State) : (pushUnsolicited cause s).power = s.power := rfl

@[simp] theorem emptyReports_pending (s : State) : (emptyReports s).pending = s.pending := rfl
@[simp] theorem emptyReports_host (s : State) : (emptyReports s).host = s.host := rfl
@[simp] theorem emptyReports_setup (s : State) : (emptyReports s).setup = s.setup := rfl
@[simp] theorem emptyReports_seq (s : State) : (emptyReports s).seq = s.seq := rfl
@[simp] theorem emptyReports_reports (s : State) :
    (emptyReports s).reports = { s.reports with stored := [], readIndex := 0, overflow := 0 } := rfl
@[simp] theorem emptyReports_banks (s : State) : (emptyReports s).banks = s.banks := rfl
@[simp] theorem emptyReports_motion (s : State) : (emptyReports s).motion = s.motion := rfl
@[simp] theorem emptyReports_events (s : State) : (emptyReports s).events = s.events := rfl
@[simp] theorem emptyReports_framer (s : State) : (emptyReports s).framer = s.framer := rfl
@[simp] theorem emptyReports_place (s : State) : (emptyReports s).place = s.place := rfl
@[simp] theorem emptyReports_health (s : State) : (emptyReports s).health = s.health := rfl
@[simp] theorem emptyReports_inputs (s : State) : (emptyReports s).inputs = s.inputs := rfl
@[simp] theorem emptyReports_link (s : State) : (emptyReports s).link = s.link := rfl
@[simp] theorem emptyReports_power (s : State) : (emptyReports s).power = s.power := rfl

@[simp] theorem discardWriteData_pending (s : State) : (discardWriteData s).pending = s.pending := rfl
@[simp] theorem discardWriteData_host (s : State) : (discardWriteData s).host = s.host := rfl
@[simp] theorem discardWriteData_setup (s : State) : (discardWriteData s).setup = s.setup := rfl
@[simp] theorem discardWriteData_seq (s : State) : (discardWriteData s).seq = s.seq := rfl
@[simp] theorem discardWriteData_reports (s : State) : (discardWriteData s).reports = s.reports := rfl
@[simp] theorem discardWriteData_banks (s : State) :
    (discardWriteData s).banks = { s.banks with a := s.banks.a.afterDiscard, b := s.banks.b.afterDiscard } := rfl
@[simp] theorem discardWriteData_motion (s : State) : (discardWriteData s).motion = s.motion := rfl
@[simp] theorem discardWriteData_events (s : State) : (discardWriteData s).events = s.events := rfl
@[simp] theorem discardWriteData_framer (s : State) : (discardWriteData s).framer = s.framer := rfl
@[simp] theorem discardWriteData_place (s : State) : (discardWriteData s).place = s.place := rfl
@[simp] theorem discardWriteData_health (s : State) : (discardWriteData s).health = s.health := rfl
@[simp] theorem discardWriteData_inputs (s : State) : (discardWriteData s).inputs = s.inputs := rfl
@[simp] theorem discardWriteData_link (s : State) : (discardWriteData s).link = s.link := rfl
@[simp] theorem discardWriteData_power (s : State) : (discardWriteData s).power = s.power := rfl

@[simp] theorem discard_pending (s : State) : (discard s).pending = s.pending := rfl
@[simp] theorem discard_host (s : State) : (discard s).host = s.host := rfl
@[simp] theorem discard_setup (s : State) : (discard s).setup = s.setup := rfl
@[simp] theorem discard_seq (s : State) : (discard s).seq = { s.seq with queue := [] } := rfl
@[simp] theorem discard_reports (s : State) : (discard s).reports = s.reports := rfl
@[simp] theorem discard_banks (s : State) :
    (discard s).banks = { s.banks with a := s.banks.a.afterDiscard, b := s.banks.b.afterDiscard } := rfl
@[simp] theorem discard_motion (s : State) : (discard s).motion = s.motion := rfl
@[simp] theorem discard_events (s : State) : (discard s).events = s.events := rfl
@[simp] theorem discard_framer (s : State) : (discard s).framer = s.framer := rfl
@[simp] theorem discard_place (s : State) : (discard s).place = s.place := rfl
@[simp] theorem discard_health (s : State) : (discard s).health = s.health := rfl
@[simp] theorem discard_inputs (s : State) : (discard s).inputs = s.inputs := rfl
@[simp] theorem discard_link (s : State) : (discard s).link = s.link := rfl
@[simp] theorem discard_power (s : State) : (discard s).power = s.power := rfl

@[simp] theorem setPosition_pending (p : Option Position) (s : State) : (setPosition p s).pending = s.pending := rfl
@[simp] theorem setPosition_host (p : Option Position) (s : State) : (setPosition p s).host = s.host := rfl
@[simp] theorem setPosition_setup (p : Option Position) (s : State) : (setPosition p s).setup = s.setup := rfl
@[simp] theorem setPosition_seq (p : Option Position) (s : State) : (setPosition p s).seq = s.seq := rfl
@[simp] theorem setPosition_reports (p : Option Position) (s : State) : (setPosition p s).reports = s.reports := rfl
@[simp] theorem setPosition_banks (p : Option Position) (s : State) : (setPosition p s).banks = s.banks := rfl
@[simp] theorem setPosition_motion (p : Option Position) (s : State) : (setPosition p s).motion = s.motion := rfl
@[simp] theorem setPosition_events (p : Option Position) (s : State) : (setPosition p s).events = s.events := rfl
@[simp] theorem setPosition_framer (p : Option Position) (s : State) : (setPosition p s).framer = s.framer := rfl
@[simp] theorem setPosition_place (p : Option Position) (s : State) :
    (setPosition p s).place = { s.place with position := if s.motion.refValid then p else none } := rfl
@[simp] theorem setPosition_health (p : Option Position) (s : State) : (setPosition p s).health = s.health := rfl
@[simp] theorem setPosition_inputs (p : Option Position) (s : State) : (setPosition p s).inputs = s.inputs := rfl
@[simp] theorem setPosition_link (p : Option Position) (s : State) : (setPosition p s).link = s.link := rfl
@[simp] theorem setPosition_power (p : Option Position) (s : State) : (setPosition p s).power = s.power := rfl

@[simp] theorem loseReference_pending (s : State) : (loseReference s).pending = s.pending := rfl
@[simp] theorem loseReference_host (s : State) : (loseReference s).host = s.host := rfl
@[simp] theorem loseReference_setup (s : State) : (loseReference s).setup = s.setup := rfl
@[simp] theorem loseReference_seq (s : State) : (loseReference s).seq = s.seq := rfl
@[simp] theorem loseReference_reports (s : State) : (loseReference s).reports = s.reports := rfl
@[simp] theorem loseReference_banks (s : State) : (loseReference s).banks = s.banks := rfl
@[simp] theorem loseReference_motion (s : State) :
    (loseReference s).motion = { s.motion with refValid := false } := rfl
@[simp] theorem loseReference_events (s : State) : (loseReference s).events = s.events := rfl
@[simp] theorem loseReference_framer (s : State) : (loseReference s).framer = s.framer := rfl
@[simp] theorem loseReference_place (s : State) : (loseReference s).place = { s.place with position := none } := rfl
@[simp] theorem loseReference_health (s : State) : (loseReference s).health = s.health := rfl
@[simp] theorem loseReference_inputs (s : State) : (loseReference s).inputs = s.inputs := rfl
@[simp] theorem loseReference_link (s : State) : (loseReference s).link = s.link := rfl
@[simp] theorem loseReference_power (s : State) : (loseReference s).power = s.power := rfl

@[simp] theorem handOver_pending (o : Ctl) (s : State) : (handOver o s).pending = s.pending := rfl
@[simp] theorem handOver_host (o : Ctl) (s : State) : (handOver o s).host = s.host := rfl
@[simp] theorem handOver_setup (o : Ctl) (s : State) : (handOver o s).setup = s.setup := rfl
@[simp] theorem handOver_seq (o : Ctl) (s : State) : (handOver o s).seq = s.seq := rfl
@[simp] theorem handOver_reports (o : Ctl) (s : State) : (handOver o s).reports = s.reports := rfl
@[simp] theorem handOver_banks (o : Ctl) (s : State) : (handOver o s).banks = s.banks := rfl
@[simp] theorem handOver_motion (o : Ctl) (s : State) : (handOver o s).motion = o.motion := rfl
@[simp] theorem handOver_events (o : Ctl) (s : State) : (handOver o s).events = s.events ++ o.events := rfl
@[simp] theorem handOver_framer (o : Ctl) (s : State) : (handOver o s).framer = s.framer := rfl
@[simp] theorem handOver_place (o : Ctl) (s : State) :
    (handOver o s).place = { s.place with position := if o.motion.refValid then s.place.position else none } := rfl
@[simp] theorem handOver_health (o : Ctl) (s : State) : (handOver o s).health = s.health := rfl
@[simp] theorem handOver_inputs (o : Ctl) (s : State) : (handOver o s).inputs = s.inputs := rfl
@[simp] theorem handOver_link (o : Ctl) (s : State) : (handOver o s).link = s.link := rfl
@[simp] theorem handOver_power (o : Ctl) (s : State) : (handOver o s).power = s.power := rfl

@[simp] theorem askStop_pending (s : State) : (askStop s).pending = s.pending := rfl
@[simp] theorem askStop_host (s : State) : (askStop s).host = s.host := rfl
@[simp] theorem askStop_setup (s : State) : (askStop s).setup = s.setup := rfl
@[simp] theorem askStop_seq (s : State) : (askStop s).seq = s.seq := rfl
@[simp] theorem askStop_reports (s : State) : (askStop s).reports = s.reports := rfl
@[simp] theorem askStop_banks (s : State) : (askStop s).banks = s.banks := rfl
@[simp] theorem askStop_framer (s : State) : (askStop s).framer = s.framer := rfl
@[simp] theorem askStop_health (s : State) : (askStop s).health = s.health := rfl
@[simp] theorem askStop_inputs (s : State) : (askStop s).inputs = s.inputs := rfl
@[simp] theorem askStop_link (s : State) : (askStop s).link = s.link := rfl
@[simp] theorem askStop_power (s : State) : (askStop s).power = s.power := rfl

@[simp] theorem dropGate_pending (s : State) : (dropGate s).pending = s.pending := rfl
@[simp] theorem dropGate_host (s : State) : (dropGate s).host = s.host := rfl
@[simp] theorem dropGate_setup (s : State) : (dropGate s).setup = s.setup := rfl
@[simp] theorem dropGate_seq (s : State) : (dropGate s).seq = s.seq := rfl
@[simp] theorem dropGate_reports (s : State) : (dropGate s).reports = s.reports := rfl
@[simp] theorem dropGate_banks (s : State) : (dropGate s).banks = s.banks := rfl
@[simp] theorem dropGate_motion (s : State) : (dropGate s).motion = s.motion := rfl
@[simp] theorem dropGate_events (s : State) : (dropGate s).events = s.events := rfl
@[simp] theorem dropGate_framer (s : State) :
    (dropGate s).framer = { s.framer with writer := .idle, gate := false, fieldBytes := [] } := rfl
@[simp] theorem dropGate_place (s : State) : (dropGate s).place = s.place := rfl
@[simp] theorem dropGate_health (s : State) : (dropGate s).health = s.health := rfl
@[simp] theorem dropGate_inputs (s : State) : (dropGate s).inputs = s.inputs := rfl
@[simp] theorem dropGate_link (s : State) : (dropGate s).link = s.link := rfl
@[simp] theorem dropGate_power (s : State) : (dropGate s).power = s.power := rfl

@[simp] theorem onActive_pending (f : Active → Active) (s : State) : (onActive f s).pending = s.pending := rfl
@[simp] theorem onActive_host (f : Active → Active) (s : State) : (onActive f s).host = s.host := rfl
@[simp] theorem onActive_setup (f : Active → Active) (s : State) : (onActive f s).setup = s.setup := rfl
@[simp] theorem onActive_seq (f : Active → Active) (s : State) :
    (onActive f s).seq = { s.seq with active := s.seq.active.map f } := rfl
@[simp] theorem onActive_reports (f : Active → Active) (s : State) : (onActive f s).reports = s.reports := rfl
@[simp] theorem onActive_banks (f : Active → Active) (s : State) : (onActive f s).banks = s.banks := rfl
@[simp] theorem onActive_motion (f : Active → Active) (s : State) : (onActive f s).motion = s.motion := rfl
@[simp] theorem onActive_events (f : Active → Active) (s : State) : (onActive f s).events = s.events := rfl
@[simp] theorem onActive_framer (f : Active → Active) (s : State) : (onActive f s).framer = s.framer := rfl
@[simp] theorem onActive_place (f : Active → Active) (s : State) : (onActive f s).place = s.place := rfl
@[simp] theorem onActive_health (f : Active → Active) (s : State) : (onActive f s).health = s.health := rfl
@[simp] theorem onActive_inputs (f : Active → Active) (s : State) : (onActive f s).inputs = s.inputs := rfl
@[simp] theorem onActive_link (f : Active → Active) (s : State) : (onActive f s).link = s.link := rfl
@[simp] theorem onActive_power (f : Active → Active) (s : State) : (onActive f s).power = s.power := rfl

@[simp] theorem raise_pending (c : Cause) (s : State) : (raise c s).pending = s.pending := rfl
@[simp] theorem raise_host (c : Cause) (s : State) : (raise c s).host = s.host := rfl
@[simp] theorem raise_setup (c : Cause) (s : State) : (raise c s).setup = s.setup := rfl
@[simp] theorem raise_reports (c : Cause) (s : State) : (raise c s).reports = s.reports := rfl
@[simp] theorem raise_banks (c : Cause) (s : State) : (raise c s).banks = s.banks := rfl
@[simp] theorem raise_motion (c : Cause) (s : State) : (raise c s).motion = s.motion := rfl
@[simp] theorem raise_events (c : Cause) (s : State) : (raise c s).events = s.events := rfl
@[simp] theorem raise_framer (c : Cause) (s : State) : (raise c s).framer = s.framer := rfl
@[simp] theorem raise_place (c : Cause) (s : State) : (raise c s).place = s.place := rfl
@[simp] theorem raise_health (c : Cause) (s : State) : (raise c s).health = s.health := rfl
@[simp] theorem raise_inputs (c : Cause) (s : State) : (raise c s).inputs = s.inputs := rfl
@[simp] theorem raise_link (c : Cause) (s : State) : (raise c s).link = s.link := rfl
@[simp] theorem raise_power (c : Cause) (s : State) : (raise c s).power = s.power := rfl

@[simp] theorem setPhase_pending (phase : Phase) (stage : Stage) (s : State) :
    (setPhase phase stage s).pending = s.pending := rfl
@[simp] theorem setPhase_host (phase : Phase) (stage : Stage) (s : State) :
    (setPhase phase stage s).host = s.host := rfl
@[simp] theorem setPhase_setup (phase : Phase) (stage : Stage) (s : State) :
    (setPhase phase stage s).setup = s.setup := rfl
@[simp] theorem setPhase_seq (phase : Phase) (stage : Stage) (s : State) :
    (setPhase phase stage s).seq = { s.seq with active := s.seq.active.map fun a => { a with phase := phase, stage := stage } } := rfl
@[simp] theorem setPhase_reports (phase : Phase) (stage : Stage) (s : State) :
    (setPhase phase stage s).reports = s.reports := rfl
@[simp] theorem setPhase_banks (phase : Phase) (stage : Stage) (s : State) :
    (setPhase phase stage s).banks = s.banks := rfl
@[simp] theorem setPhase_motion (phase : Phase) (stage : Stage) (s : State) :
    (setPhase phase stage s).motion = s.motion := rfl
@[simp] theorem setPhase_events (phase : Phase) (stage : Stage) (s : State) :
    (setPhase phase stage s).events = s.events := rfl
@[simp] theorem setPhase_framer (phase : Phase) (stage : Stage) (s : State) :
    (setPhase phase stage s).framer = s.framer := rfl
@[simp] theorem setPhase_place (phase : Phase) (stage : Stage) (s : State) :
    (setPhase phase stage s).place = s.place := rfl
@[simp] theorem setPhase_health (phase : Phase) (stage : Stage) (s : State) :
    (setPhase phase stage s).health = s.health := rfl
@[simp] theorem setPhase_inputs (phase : Phase) (stage : Stage) (s : State) :
    (setPhase phase stage s).inputs = s.inputs := rfl
@[simp] theorem setPhase_link (phase : Phase) (stage : Stage) (s : State) :
    (setPhase phase stage s).link = s.link := rfl
@[simp] theorem setPhase_power (phase : Phase) (stage : Stage) (s : State) :
    (setPhase phase stage s).power = s.power := rfl

@[simp] theorem setFinal_pending (p : Option (Option Position)) (s : State) :
    (setFinal p s).pending = s.pending := rfl
@[simp] theorem setFinal_host (p : Option (Option Position)) (s : State) : (setFinal p s).host = s.host := rfl
@[simp] theorem setFinal_setup (p : Option (Option Position)) (s : State) : (setFinal p s).setup = s.setup := rfl
@[simp] theorem setFinal_seq (p : Option (Option Position)) (s : State) :
    (setFinal p s).seq = { s.seq with active := s.seq.active.map fun a => { a with final := p } } := rfl
@[simp] theorem setFinal_reports (p : Option (Option Position)) (s : State) :
    (setFinal p s).reports = s.reports := rfl
@[simp] theorem setFinal_banks (p : Option (Option Position)) (s : State) : (setFinal p s).banks = s.banks := rfl
@[simp] theorem setFinal_motion (p : Option (Option Position)) (s : State) : (setFinal p s).motion = s.motion := rfl
@[simp] theorem setFinal_events (p : Option (Option Position)) (s : State) : (setFinal p s).events = s.events := rfl
@[simp] theorem setFinal_framer (p : Option (Option Position)) (s : State) : (setFinal p s).framer = s.framer := rfl
@[simp] theorem setFinal_place (p : Option (Option Position)) (s : State) : (setFinal p s).place = s.place := rfl
@[simp] theorem setFinal_health (p : Option (Option Position)) (s : State) : (setFinal p s).health = s.health := rfl
@[simp] theorem setFinal_inputs (p : Option (Option Position)) (s : State) : (setFinal p s).inputs = s.inputs := rfl
@[simp] theorem setFinal_link (p : Option (Option Position)) (s : State) : (setFinal p s).link = s.link := rfl
@[simp] theorem setFinal_power (p : Option (Option Position)) (s : State) : (setFinal p s).power = s.power := rfl

@[simp] theorem clearActive_pending (s : State) : (clearActive s).pending = s.pending := rfl
@[simp] theorem clearActive_host (s : State) : (clearActive s).host = s.host := rfl
@[simp] theorem clearActive_setup (s : State) : (clearActive s).setup = s.setup := rfl
@[simp] theorem clearActive_seq (s : State) :
    (clearActive s).seq = { s.seq with active := none, haltPending := false } := rfl
@[simp] theorem clearActive_reports (s : State) : (clearActive s).reports = s.reports := rfl
@[simp] theorem clearActive_banks (s : State) : (clearActive s).banks = s.banks := rfl
@[simp] theorem clearActive_motion (s : State) : (clearActive s).motion = s.motion := rfl
@[simp] theorem clearActive_events (s : State) : (clearActive s).events = s.events := rfl
@[simp] theorem clearActive_framer (s : State) : (clearActive s).framer = s.framer := rfl
@[simp] theorem clearActive_place (s : State) : (clearActive s).place = s.place := rfl
@[simp] theorem clearActive_health (s : State) : (clearActive s).health = s.health := rfl
@[simp] theorem clearActive_inputs (s : State) : (clearActive s).inputs = s.inputs := rfl
@[simp] theorem clearActive_link (s : State) : (clearActive s).link = s.link := rfl
@[simp] theorem clearActive_power (s : State) : (clearActive s).power = s.power := rfl

@[simp] theorem faultBits_pending (s : State) : (faultBits s).pending = s.pending := rfl
@[simp] theorem faultBits_host (s : State) : (faultBits s).host = s.host := rfl
@[simp] theorem faultBits_setup (s : State) : (faultBits s).setup = s.setup := rfl
@[simp] theorem faultBits_seq (s : State) : (faultBits s).seq = s.seq := rfl
@[simp] theorem faultBits_reports (s : State) : (faultBits s).reports = s.reports := rfl
@[simp] theorem faultBits_banks (s : State) : (faultBits s).banks = s.banks := rfl
@[simp] theorem faultBits_motion (s : State) : (faultBits s).motion = s.motion := rfl
@[simp] theorem faultBits_events (s : State) : (faultBits s).events = s.events := rfl
@[simp] theorem faultBits_framer (s : State) : (faultBits s).framer = s.framer := rfl
@[simp] theorem faultBits_place (s : State) : (faultBits s).place = s.place := rfl
@[simp] theorem faultBits_inputs (s : State) : (faultBits s).inputs = s.inputs := rfl
@[simp] theorem faultBits_link (s : State) : (faultBits s).link = s.link := rfl
@[simp] theorem faultBits_power (s : State) : (faultBits s).power = s.power := rfl

@[simp] theorem activate_pending (e : QueueEntry) (rest : List QueueEntry) (s : State) :
    (activate e rest s).pending = s.pending := rfl
@[simp] theorem activate_host (e : QueueEntry) (rest : List QueueEntry) (s : State) :
    (activate e rest s).host = s.host := rfl
@[simp] theorem activate_setup (e : QueueEntry) (rest : List QueueEntry) (s : State) :
    (activate e rest s).setup = s.setup := rfl
@[simp] theorem activate_seq (e : QueueEntry) (rest : List QueueEntry) (s : State) :
    (activate e rest s).seq = { s.seq with queue := rest, active := some (newActive s e) } := rfl
@[simp] theorem activate_reports (e : QueueEntry) (rest : List QueueEntry) (s : State) :
    (activate e rest s).reports = s.reports := rfl
@[simp] theorem activate_banks (e : QueueEntry) (rest : List QueueEntry) (s : State) :
    (activate e rest s).banks = s.banks := rfl
@[simp] theorem activate_motion (e : QueueEntry) (rest : List QueueEntry) (s : State) :
    (activate e rest s).motion = s.motion := rfl
@[simp] theorem activate_events (e : QueueEntry) (rest : List QueueEntry) (s : State) :
    (activate e rest s).events = s.events := rfl
@[simp] theorem activate_framer (e : QueueEntry) (rest : List QueueEntry) (s : State) :
    (activate e rest s).framer = s.framer := rfl
@[simp] theorem activate_place (e : QueueEntry) (rest : List QueueEntry) (s : State) :
    (activate e rest s).place = s.place := rfl
@[simp] theorem activate_health (e : QueueEntry) (rest : List QueueEntry) (s : State) :
    (activate e rest s).health = s.health := rfl
@[simp] theorem activate_inputs (e : QueueEntry) (rest : List QueueEntry) (s : State) :
    (activate e rest s).inputs = s.inputs := rfl
@[simp] theorem activate_link (e : QueueEntry) (rest : List QueueEntry) (s : State) :
    (activate e rest s).link = s.link := rfl
@[simp] theorem activate_power (e : QueueEntry) (rest : List QueueEntry) (s : State) :
    (activate e rest s).power = { s.power with standbyTimer := 0 } := rfl

@[simp] theorem beginRecording_pending (r : Recording) (s : State) : (beginRecording r s).pending = s.pending := rfl
@[simp] theorem beginRecording_host (r : Recording) (s : State) : (beginRecording r s).host = s.host := rfl
@[simp] theorem beginRecording_setup (r : Recording) (s : State) : (beginRecording r s).setup = s.setup := rfl
@[simp] theorem beginRecording_seq (r : Recording) (s : State) : (beginRecording r s).seq = s.seq := rfl
@[simp] theorem beginRecording_reports (r : Recording) (s : State) : (beginRecording r s).reports = s.reports := rfl
@[simp] theorem beginRecording_banks (r : Recording) (s : State) : (beginRecording r s).banks = s.banks := rfl
@[simp] theorem beginRecording_motion (r : Recording) (s : State) : (beginRecording r s).motion = s.motion := rfl
@[simp] theorem beginRecording_events (r : Recording) (s : State) : (beginRecording r s).events = s.events := rfl
@[simp] theorem beginRecording_place (r : Recording) (s : State) : (beginRecording r s).place = s.place := rfl
@[simp] theorem beginRecording_health (r : Recording) (s : State) : (beginRecording r s).health = s.health := rfl
@[simp] theorem beginRecording_inputs (r : Recording) (s : State) : (beginRecording r s).inputs = s.inputs := rfl
@[simp] theorem beginRecording_link (r : Recording) (s : State) : (beginRecording r s).link = s.link := rfl
@[simp] theorem beginRecording_power (r : Recording) (s : State) : (beginRecording r s).power = s.power := rfl

@[simp] theorem forgetPosition_pending (s : State) : (forgetPosition s).pending = s.pending := rfl
@[simp] theorem forgetPosition_host (s : State) : (forgetPosition s).host = s.host := rfl
@[simp] theorem forgetPosition_setup (s : State) : (forgetPosition s).setup = s.setup := rfl
@[simp] theorem forgetPosition_seq (s : State) : (forgetPosition s).seq = s.seq := rfl
@[simp] theorem forgetPosition_reports (s : State) : (forgetPosition s).reports = s.reports := rfl
@[simp] theorem forgetPosition_banks (s : State) : (forgetPosition s).banks = s.banks := rfl
@[simp] theorem forgetPosition_motion (s : State) : (forgetPosition s).motion = s.motion := rfl
@[simp] theorem forgetPosition_events (s : State) : (forgetPosition s).events = s.events := rfl
@[simp] theorem forgetPosition_framer (s : State) : (forgetPosition s).framer = s.framer := rfl
@[simp] theorem forgetPosition_place (s : State) : (forgetPosition s).place = { s.place with position := none } := rfl
@[simp] theorem forgetPosition_health (s : State) : (forgetPosition s).health = s.health := rfl
@[simp] theorem forgetPosition_inputs (s : State) : (forgetPosition s).inputs = s.inputs := rfl
@[simp] theorem forgetPosition_link (s : State) : (forgetPosition s).link = s.link := rfl
@[simp] theorem forgetPosition_power (s : State) : (forgetPosition s).power = s.power := rfl

@[simp] theorem setScanOrigin_pending (t : Int) (s : State) : (setScanOrigin t s).pending = s.pending := rfl
@[simp] theorem setScanOrigin_host (t : Int) (s : State) : (setScanOrigin t s).host = s.host := rfl
@[simp] theorem setScanOrigin_setup (t : Int) (s : State) : (setScanOrigin t s).setup = s.setup := rfl
@[simp] theorem setScanOrigin_reports (t : Int) (s : State) : (setScanOrigin t s).reports = s.reports := rfl
@[simp] theorem setScanOrigin_banks (t : Int) (s : State) : (setScanOrigin t s).banks = s.banks := rfl
@[simp] theorem setScanOrigin_motion (t : Int) (s : State) : (setScanOrigin t s).motion = s.motion := rfl
@[simp] theorem setScanOrigin_events (t : Int) (s : State) : (setScanOrigin t s).events = s.events := rfl
@[simp] theorem setScanOrigin_framer (t : Int) (s : State) : (setScanOrigin t s).framer = s.framer := rfl
@[simp] theorem setScanOrigin_place (t : Int) (s : State) : (setScanOrigin t s).place = s.place := rfl
@[simp] theorem setScanOrigin_health (t : Int) (s : State) : (setScanOrigin t s).health = s.health := rfl
@[simp] theorem setScanOrigin_inputs (t : Int) (s : State) : (setScanOrigin t s).inputs = s.inputs := rfl
@[simp] theorem setScanOrigin_link (t : Int) (s : State) : (setScanOrigin t s).link = s.link := rfl
@[simp] theorem setScanOrigin_power (t : Int) (s : State) : (setScanOrigin t s).power = s.power := rfl

@[simp] theorem restartGap_pending (s : State) : (restartGap s).pending = s.pending := rfl
@[simp] theorem restartGap_host (s : State) : (restartGap s).host = s.host := rfl
@[simp] theorem restartGap_setup (s : State) : (restartGap s).setup = s.setup := rfl
@[simp] theorem restartGap_reports (s : State) : (restartGap s).reports = s.reports := rfl
@[simp] theorem restartGap_banks (s : State) : (restartGap s).banks = s.banks := rfl
@[simp] theorem restartGap_motion (s : State) : (restartGap s).motion = s.motion := rfl
@[simp] theorem restartGap_events (s : State) : (restartGap s).events = s.events := rfl
@[simp] theorem restartGap_framer (s : State) : (restartGap s).framer = s.framer := rfl
@[simp] theorem restartGap_place (s : State) : (restartGap s).place = s.place := rfl
@[simp] theorem restartGap_health (s : State) : (restartGap s).health = s.health := rfl
@[simp] theorem restartGap_inputs (s : State) : (restartGap s).inputs = s.inputs := rfl
@[simp] theorem restartGap_link (s : State) : (restartGap s).link = s.link := rfl
@[simp] theorem restartGap_power (s : State) : (restartGap s).power = s.power := rfl

@[simp] theorem loadHeader_pending (c : HeaderContent) (s : State) : (loadHeader c s).pending = s.pending := rfl
@[simp] theorem loadHeader_host (c : HeaderContent) (s : State) : (loadHeader c s).host = s.host := rfl
@[simp] theorem loadHeader_setup (c : HeaderContent) (s : State) : (loadHeader c s).setup = s.setup := rfl
@[simp] theorem loadHeader_seq (c : HeaderContent) (s : State) : (loadHeader c s).seq = s.seq := rfl
@[simp] theorem loadHeader_reports (c : HeaderContent) (s : State) : (loadHeader c s).reports = s.reports := rfl
@[simp] theorem loadHeader_banks (c : HeaderContent) (s : State) : (loadHeader c s).banks = s.banks := rfl
@[simp] theorem loadHeader_motion (c : HeaderContent) (s : State) : (loadHeader c s).motion = s.motion := rfl
@[simp] theorem loadHeader_events (c : HeaderContent) (s : State) : (loadHeader c s).events = s.events := rfl
@[simp] theorem loadHeader_framer (c : HeaderContent) (s : State) :
    (loadHeader c s).framer = { s.framer with lastHeader := c } := rfl
@[simp] theorem loadHeader_place (c : HeaderContent) (s : State) : (loadHeader c s).place = s.place := rfl
@[simp] theorem loadHeader_health (c : HeaderContent) (s : State) : (loadHeader c s).health = s.health := rfl
@[simp] theorem loadHeader_inputs (c : HeaderContent) (s : State) : (loadHeader c s).inputs = s.inputs := rfl
@[simp] theorem loadHeader_link (c : HeaderContent) (s : State) : (loadHeader c s).link = s.link := rfl
@[simp] theorem loadHeader_power (c : HeaderContent) (s : State) : (loadHeader c s).power = s.power := rfl

@[simp] theorem scanFrom_pending (s : State) : (scanFrom s).pending = s.pending := rfl
@[simp] theorem scanFrom_host (s : State) : (scanFrom s).host = s.host := rfl
@[simp] theorem scanFrom_setup (s : State) : (scanFrom s).setup = s.setup := rfl
@[simp] theorem scanFrom_reports (s : State) : (scanFrom s).reports = s.reports := rfl
@[simp] theorem scanFrom_banks (s : State) : (scanFrom s).banks = s.banks := rfl
@[simp] theorem scanFrom_motion (s : State) : (scanFrom s).motion = s.motion := rfl
@[simp] theorem scanFrom_events (s : State) : (scanFrom s).events = s.events := rfl
@[simp] theorem scanFrom_framer (s : State) : (scanFrom s).framer = s.framer := rfl
@[simp] theorem scanFrom_place (s : State) : (scanFrom s).place = s.place := rfl
@[simp] theorem scanFrom_health (s : State) : (scanFrom s).health = s.health := rfl
@[simp] theorem scanFrom_inputs (s : State) : (scanFrom s).inputs = s.inputs := rfl
@[simp] theorem scanFrom_link (s : State) : (scanFrom s).link = s.link := rfl
@[simp] theorem scanFrom_power (s : State) : (scanFrom s).power = s.power := rfl

@[simp] theorem enterStandby_pending (s : State) : (enterStandby s).pending = s.pending := rfl
@[simp] theorem enterStandby_host (s : State) : (enterStandby s).host = s.host := rfl
@[simp] theorem enterStandby_setup (s : State) : (enterStandby s).setup = s.setup := rfl
@[simp] theorem enterStandby_seq (s : State) : (enterStandby s).seq = s.seq := rfl
@[simp] theorem enterStandby_reports (s : State) : (enterStandby s).reports = s.reports := rfl
@[simp] theorem enterStandby_banks (s : State) : (enterStandby s).banks = s.banks := rfl
@[simp] theorem enterStandby_motion (s : State) : (enterStandby s).motion = s.motion := rfl
@[simp] theorem enterStandby_events (s : State) : (enterStandby s).events = s.events := rfl
@[simp] theorem enterStandby_framer (s : State) : (enterStandby s).framer = s.framer := rfl
@[simp] theorem enterStandby_place (s : State) : (enterStandby s).place = s.place := rfl
@[simp] theorem enterStandby_health (s : State) : (enterStandby s).health = s.health := rfl
@[simp] theorem enterStandby_inputs (s : State) : (enterStandby s).inputs = s.inputs := rfl
@[simp] theorem enterStandby_link (s : State) : (enterStandby s).link = s.link := rfl
@[simp] theorem enterStandby_power (s : State) :
    (enterStandby s).power = { s.power with state := .standby, standbyTimer := 0 } := rfl

@[simp] theorem enterPending_pending (s : State) : (enterPending s).pending = s.pending := rfl
@[simp] theorem enterPending_host (s : State) : (enterPending s).host = s.host := rfl
@[simp] theorem enterPending_setup (s : State) : (enterPending s).setup = s.setup := rfl
@[simp] theorem enterPending_seq (s : State) : (enterPending s).seq = s.seq := rfl
@[simp] theorem enterPending_reports (s : State) : (enterPending s).reports = s.reports := rfl
@[simp] theorem enterPending_banks (s : State) : (enterPending s).banks = s.banks := rfl
@[simp] theorem enterPending_motion (s : State) : (enterPending s).motion = s.motion := rfl
@[simp] theorem enterPending_events (s : State) : (enterPending s).events = s.events := rfl
@[simp] theorem enterPending_framer (s : State) : (enterPending s).framer = s.framer := rfl
@[simp] theorem enterPending_place (s : State) : (enterPending s).place = s.place := rfl
@[simp] theorem enterPending_health (s : State) : (enterPending s).health = s.health := rfl
@[simp] theorem enterPending_inputs (s : State) : (enterPending s).inputs = s.inputs := rfl
@[simp] theorem enterPending_link (s : State) : (enterPending s).link = s.link := rfl

@[simp] theorem leavePending_pending (s : State) : (leavePending s).pending = s.pending := rfl
@[simp] theorem leavePending_host (s : State) : (leavePending s).host = s.host := rfl
@[simp] theorem leavePending_setup (s : State) : (leavePending s).setup = s.setup := rfl
@[simp] theorem leavePending_seq (s : State) : (leavePending s).seq = s.seq := rfl
@[simp] theorem leavePending_reports (s : State) : (leavePending s).reports = s.reports := rfl
@[simp] theorem leavePending_banks (s : State) : (leavePending s).banks = s.banks := rfl
@[simp] theorem leavePending_motion (s : State) : (leavePending s).motion = s.motion := rfl
@[simp] theorem leavePending_events (s : State) : (leavePending s).events = s.events := rfl
@[simp] theorem leavePending_framer (s : State) : (leavePending s).framer = s.framer := rfl
@[simp] theorem leavePending_place (s : State) : (leavePending s).place = s.place := rfl
@[simp] theorem leavePending_health (s : State) : (leavePending s).health = s.health := rfl
@[simp] theorem leavePending_inputs (s : State) : (leavePending s).inputs = s.inputs := rfl
@[simp] theorem leavePending_link (s : State) : (leavePending s).link = s.link := rfl

@[simp] theorem enterSleep_pending (s : State) : (enterSleep s).pending = s.pending := rfl
@[simp] theorem enterSleep_host (s : State) : (enterSleep s).host = s.host := rfl
@[simp] theorem enterSleep_setup (s : State) : (enterSleep s).setup = s.setup := rfl
@[simp] theorem enterSleep_reports (s : State) : (enterSleep s).reports = s.reports := rfl
@[simp] theorem enterSleep_banks (s : State) : (enterSleep s).banks = s.banks := rfl
@[simp] theorem enterSleep_motion (s : State) : (enterSleep s).motion = cancelRequest s.motion := rfl
@[simp] theorem enterSleep_events (s : State) : (enterSleep s).events = [] := rfl
@[simp] theorem enterSleep_framer (s : State) : (enterSleep s).framer = s.framer := rfl
@[simp] theorem enterSleep_place (s : State) : (enterSleep s).place = s.place := rfl
@[simp] theorem enterSleep_health (s : State) : (enterSleep s).health = s.health := rfl
@[simp] theorem enterSleep_inputs (s : State) : (enterSleep s).inputs = s.inputs := rfl
@[simp] theorem enterSleep_link (s : State) : (enterSleep s).link = s.link := rfl

@[simp] theorem clearOrderSide_pending (s : State) : (clearOrderSide s).pending = s.pending := rfl
@[simp] theorem clearOrderSide_host (s : State) : (clearOrderSide s).host = HostPort.afterReset := rfl
@[simp] theorem clearOrderSide_setup (s : State) : (clearOrderSide s).setup = s.setup := rfl
@[simp] theorem clearOrderSide_seq (s : State) : (clearOrderSide s).seq = Sequencer.afterReset := rfl
@[simp] theorem clearOrderSide_reports (s : State) : (clearOrderSide s).reports = s.reports := rfl
@[simp] theorem clearOrderSide_banks (s : State) : (clearOrderSide s).banks = Banks.afterReset := rfl
@[simp] theorem clearOrderSide_motion (s : State) : (clearOrderSide s).motion = s.motion := rfl
@[simp] theorem clearOrderSide_events (s : State) : (clearOrderSide s).events = [] := rfl
@[simp] theorem clearOrderSide_framer (s : State) : (clearOrderSide s).framer = Framer.afterReset := rfl
@[simp] theorem clearOrderSide_place (s : State) : (clearOrderSide s).place = s.place := rfl
@[simp] theorem clearOrderSide_health (s : State) : (clearOrderSide s).health = s.health := rfl
@[simp] theorem clearOrderSide_inputs (s : State) : (clearOrderSide s).inputs = s.inputs := rfl
@[simp] theorem clearOrderSide_link (s : State) : (clearOrderSide s).link = s.link := rfl

@[simp] theorem rewindReport_pending (s : State) : (rewindReport s).pending = s.pending := rfl
@[simp] theorem rewindReport_host (s : State) : (rewindReport s).host = s.host := rfl
@[simp] theorem rewindReport_setup (s : State) : (rewindReport s).setup = s.setup := rfl
@[simp] theorem rewindReport_seq (s : State) : (rewindReport s).seq = s.seq := rfl
@[simp] theorem rewindReport_reports (s : State) : (rewindReport s).reports = { s.reports with readIndex := 0 } := rfl
@[simp] theorem rewindReport_banks (s : State) : (rewindReport s).banks = s.banks := rfl
@[simp] theorem rewindReport_motion (s : State) : (rewindReport s).motion = s.motion := rfl
@[simp] theorem rewindReport_events (s : State) : (rewindReport s).events = s.events := rfl
@[simp] theorem rewindReport_framer (s : State) : (rewindReport s).framer = s.framer := rfl
@[simp] theorem rewindReport_place (s : State) : (rewindReport s).place = s.place := rfl
@[simp] theorem rewindReport_health (s : State) : (rewindReport s).health = s.health := rfl
@[simp] theorem rewindReport_inputs (s : State) : (rewindReport s).inputs = s.inputs := rfl
@[simp] theorem rewindReport_link (s : State) : (rewindReport s).link = s.link := rfl
@[simp] theorem rewindReport_power (s : State) : (rewindReport s).power = s.power := rfl

@[simp] theorem setEnables_pending (v : Byte) (s : State) : (setEnables v s).pending = s.pending := rfl
@[simp] theorem setEnables_setup (v : Byte) (s : State) : (setEnables v s).setup = s.setup := rfl
@[simp] theorem setEnables_seq (v : Byte) (s : State) : (setEnables v s).seq = s.seq := rfl
@[simp] theorem setEnables_reports (v : Byte) (s : State) : (setEnables v s).reports = s.reports := rfl
@[simp] theorem setEnables_banks (v : Byte) (s : State) : (setEnables v s).banks = s.banks := rfl
@[simp] theorem setEnables_motion (v : Byte) (s : State) : (setEnables v s).motion = s.motion := rfl
@[simp] theorem setEnables_events (v : Byte) (s : State) : (setEnables v s).events = s.events := rfl
@[simp] theorem setEnables_framer (v : Byte) (s : State) : (setEnables v s).framer = s.framer := rfl
@[simp] theorem setEnables_place (v : Byte) (s : State) : (setEnables v s).place = s.place := rfl
@[simp] theorem setEnables_health (v : Byte) (s : State) : (setEnables v s).health = s.health := rfl
@[simp] theorem setEnables_inputs (v : Byte) (s : State) : (setEnables v s).inputs = s.inputs := rfl
@[simp] theorem setEnables_link (v : Byte) (s : State) : (setEnables v s).link = s.link := rfl
@[simp] theorem setEnables_power (v : Byte) (s : State) : (setEnables v s).power = s.power := rfl

@[simp] theorem clearFlags_pending (v : Byte) (s : State) : (clearFlags v s).pending = s.pending := rfl
@[simp] theorem clearFlags_setup (v : Byte) (s : State) : (clearFlags v s).setup = s.setup := rfl
@[simp] theorem clearFlags_seq (v : Byte) (s : State) : (clearFlags v s).seq = s.seq := rfl
@[simp] theorem clearFlags_reports (v : Byte) (s : State) : (clearFlags v s).reports = s.reports := rfl
@[simp] theorem clearFlags_banks (v : Byte) (s : State) : (clearFlags v s).banks = s.banks := rfl
@[simp] theorem clearFlags_motion (v : Byte) (s : State) : (clearFlags v s).motion = s.motion := rfl
@[simp] theorem clearFlags_events (v : Byte) (s : State) : (clearFlags v s).events = s.events := rfl
@[simp] theorem clearFlags_framer (v : Byte) (s : State) : (clearFlags v s).framer = s.framer := rfl
@[simp] theorem clearFlags_place (v : Byte) (s : State) : (clearFlags v s).place = s.place := rfl
@[simp] theorem clearFlags_health (v : Byte) (s : State) : (clearFlags v s).health = s.health := rfl
@[simp] theorem clearFlags_inputs (v : Byte) (s : State) : (clearFlags v s).inputs = s.inputs := rfl
@[simp] theorem clearFlags_link (v : Byte) (s : State) : (clearFlags v s).link = s.link := rfl
@[simp] theorem clearFlags_power (v : Byte) (s : State) : (clearFlags v s).power = s.power := rfl

@[simp] theorem setIndex_pending (v : Byte) (s : State) : (setIndex v s).pending = s.pending := rfl
@[simp] theorem setIndex_host (v : Byte) (s : State) : (setIndex v s).host = { s.host with setupIndex := v } := rfl
@[simp] theorem setIndex_setup (v : Byte) (s : State) : (setIndex v s).setup = s.setup := rfl
@[simp] theorem setIndex_seq (v : Byte) (s : State) : (setIndex v s).seq = s.seq := rfl
@[simp] theorem setIndex_reports (v : Byte) (s : State) : (setIndex v s).reports = s.reports := rfl
@[simp] theorem setIndex_banks (v : Byte) (s : State) : (setIndex v s).banks = s.banks := rfl
@[simp] theorem setIndex_motion (v : Byte) (s : State) : (setIndex v s).motion = s.motion := rfl
@[simp] theorem setIndex_events (v : Byte) (s : State) : (setIndex v s).events = s.events := rfl
@[simp] theorem setIndex_framer (v : Byte) (s : State) : (setIndex v s).framer = s.framer := rfl
@[simp] theorem setIndex_place (v : Byte) (s : State) : (setIndex v s).place = s.place := rfl
@[simp] theorem setIndex_health (v : Byte) (s : State) : (setIndex v s).health = s.health := rfl
@[simp] theorem setIndex_inputs (v : Byte) (s : State) : (setIndex v s).inputs = s.inputs := rfl
@[simp] theorem setIndex_link (v : Byte) (s : State) : (setIndex v s).link = s.link := rfl
@[simp] theorem setIndex_power (v : Byte) (s : State) : (setIndex v s).power = s.power := rfl

@[simp] theorem stepIndex_pending (s : State) : (stepIndex s).pending = s.pending := rfl
@[simp] theorem stepIndex_setup (s : State) : (stepIndex s).setup = s.setup := rfl
@[simp] theorem stepIndex_seq (s : State) : (stepIndex s).seq = s.seq := rfl
@[simp] theorem stepIndex_reports (s : State) : (stepIndex s).reports = s.reports := rfl
@[simp] theorem stepIndex_banks (s : State) : (stepIndex s).banks = s.banks := rfl
@[simp] theorem stepIndex_motion (s : State) : (stepIndex s).motion = s.motion := rfl
@[simp] theorem stepIndex_events (s : State) : (stepIndex s).events = s.events := rfl
@[simp] theorem stepIndex_framer (s : State) : (stepIndex s).framer = s.framer := rfl
@[simp] theorem stepIndex_place (s : State) : (stepIndex s).place = s.place := rfl
@[simp] theorem stepIndex_health (s : State) : (stepIndex s).health = s.health := rfl
@[simp] theorem stepIndex_inputs (s : State) : (stepIndex s).inputs = s.inputs := rfl
@[simp] theorem stepIndex_link (s : State) : (stepIndex s).link = s.link := rfl
@[simp] theorem stepIndex_power (s : State) : (stepIndex s).power = s.power := rfl

@[simp] theorem takeSnap_pending (base : Byte) (v : Nat) (s : State) : (takeSnap base v s).pending = s.pending := rfl
@[simp] theorem takeSnap_setup (base : Byte) (v : Nat) (s : State) : (takeSnap base v s).setup = s.setup := rfl
@[simp] theorem takeSnap_seq (base : Byte) (v : Nat) (s : State) : (takeSnap base v s).seq = s.seq := rfl
@[simp] theorem takeSnap_reports (base : Byte) (v : Nat) (s : State) : (takeSnap base v s).reports = s.reports := rfl
@[simp] theorem takeSnap_banks (base : Byte) (v : Nat) (s : State) : (takeSnap base v s).banks = s.banks := rfl
@[simp] theorem takeSnap_motion (base : Byte) (v : Nat) (s : State) : (takeSnap base v s).motion = s.motion := rfl
@[simp] theorem takeSnap_events (base : Byte) (v : Nat) (s : State) : (takeSnap base v s).events = s.events := rfl
@[simp] theorem takeSnap_framer (base : Byte) (v : Nat) (s : State) : (takeSnap base v s).framer = s.framer := rfl
@[simp] theorem takeSnap_place (base : Byte) (v : Nat) (s : State) : (takeSnap base v s).place = s.place := rfl
@[simp] theorem takeSnap_health (base : Byte) (v : Nat) (s : State) : (takeSnap base v s).health = s.health := rfl
@[simp] theorem takeSnap_inputs (base : Byte) (v : Nat) (s : State) : (takeSnap base v s).inputs = s.inputs := rfl
@[simp] theorem takeSnap_link (base : Byte) (v : Nat) (s : State) : (takeSnap base v s).link = s.link := rfl
@[simp] theorem takeSnap_power (base : Byte) (v : Nat) (s : State) : (takeSnap base v s).power = s.power := rfl

@[simp] theorem storeShadow_pending (index : Byte) (v : Byte) (s : State) :
    (storeShadow index v s).pending = s.pending := rfl
@[simp] theorem storeShadow_setup (index : Byte) (v : Byte) (s : State) :
    (storeShadow index v s).setup = s.setup := rfl
@[simp] theorem storeShadow_seq (index : Byte) (v : Byte) (s : State) : (storeShadow index v s).seq = s.seq := rfl
@[simp] theorem storeShadow_reports (index : Byte) (v : Byte) (s : State) :
    (storeShadow index v s).reports = s.reports := rfl
@[simp] theorem storeShadow_banks (index : Byte) (v : Byte) (s : State) :
    (storeShadow index v s).banks = s.banks := rfl
@[simp] theorem storeShadow_motion (index : Byte) (v : Byte) (s : State) :
    (storeShadow index v s).motion = s.motion := rfl
@[simp] theorem storeShadow_events (index : Byte) (v : Byte) (s : State) :
    (storeShadow index v s).events = s.events := rfl
@[simp] theorem storeShadow_framer (index : Byte) (v : Byte) (s : State) :
    (storeShadow index v s).framer = s.framer := rfl
@[simp] theorem storeShadow_place (index : Byte) (v : Byte) (s : State) :
    (storeShadow index v s).place = s.place := rfl
@[simp] theorem storeShadow_health (index : Byte) (v : Byte) (s : State) :
    (storeShadow index v s).health = s.health := rfl
@[simp] theorem storeShadow_inputs (index : Byte) (v : Byte) (s : State) :
    (storeShadow index v s).inputs = s.inputs := rfl
@[simp] theorem storeShadow_link (index : Byte) (v : Byte) (s : State) : (storeShadow index v s).link = s.link := rfl
@[simp] theorem storeShadow_power (index : Byte) (v : Byte) (s : State) :
    (storeShadow index v s).power = s.power := rfl

@[simp] theorem clearShadow_pending (r : ItemRow) (s : State) : (clearShadow r s).pending = s.pending := rfl
@[simp] theorem clearShadow_setup (r : ItemRow) (s : State) : (clearShadow r s).setup = s.setup := rfl
@[simp] theorem clearShadow_seq (r : ItemRow) (s : State) : (clearShadow r s).seq = s.seq := rfl
@[simp] theorem clearShadow_reports (r : ItemRow) (s : State) : (clearShadow r s).reports = s.reports := rfl
@[simp] theorem clearShadow_banks (r : ItemRow) (s : State) : (clearShadow r s).banks = s.banks := rfl
@[simp] theorem clearShadow_motion (r : ItemRow) (s : State) : (clearShadow r s).motion = s.motion := rfl
@[simp] theorem clearShadow_events (r : ItemRow) (s : State) : (clearShadow r s).events = s.events := rfl
@[simp] theorem clearShadow_framer (r : ItemRow) (s : State) : (clearShadow r s).framer = s.framer := rfl
@[simp] theorem clearShadow_place (r : ItemRow) (s : State) : (clearShadow r s).place = s.place := rfl
@[simp] theorem clearShadow_health (r : ItemRow) (s : State) : (clearShadow r s).health = s.health := rfl
@[simp] theorem clearShadow_inputs (r : ItemRow) (s : State) : (clearShadow r s).inputs = s.inputs := rfl
@[simp] theorem clearShadow_link (r : ItemRow) (s : State) : (clearShadow r s).link = s.link := rfl
@[simp] theorem clearShadow_power (r : ItemRow) (s : State) : (clearShadow r s).power = s.power := rfl

@[simp] theorem acceptOrder_pending (code : Byte) (s : State) : (acceptOrder code s).pending = s.pending := rfl
@[simp] theorem acceptOrder_host (code : Byte) (s : State) : (acceptOrder code s).host = s.host := rfl
@[simp] theorem acceptOrder_setup (code : Byte) (s : State) : (acceptOrder code s).setup = s.setup := rfl
@[simp] theorem acceptOrder_seq (code : Byte) (s : State) :
    (acceptOrder code s).seq = { s.seq with queue := s.seq.queue ++ [newEntry code s], tag := s.seq.tag + 1, staging := [] } := rfl
@[simp] theorem acceptOrder_reports (code : Byte) (s : State) : (acceptOrder code s).reports = s.reports := rfl
@[simp] theorem acceptOrder_banks (code : Byte) (s : State) : (acceptOrder code s).banks = s.banks := rfl
@[simp] theorem acceptOrder_motion (code : Byte) (s : State) : (acceptOrder code s).motion = s.motion := rfl
@[simp] theorem acceptOrder_events (code : Byte) (s : State) : (acceptOrder code s).events = s.events := rfl
@[simp] theorem acceptOrder_framer (code : Byte) (s : State) : (acceptOrder code s).framer = s.framer := rfl
@[simp] theorem acceptOrder_place (code : Byte) (s : State) : (acceptOrder code s).place = s.place := rfl
@[simp] theorem acceptOrder_health (code : Byte) (s : State) : (acceptOrder code s).health = s.health := rfl
@[simp] theorem acceptOrder_inputs (code : Byte) (s : State) : (acceptOrder code s).inputs = s.inputs := rfl
@[simp] theorem acceptOrder_link (code : Byte) (s : State) : (acceptOrder code s).link = s.link := rfl
@[simp] theorem acceptOrder_power (code : Byte) (s : State) :
    (acceptOrder code s).power = { s.power with standbyTimer := 0 } := rfl

@[simp] theorem rejectOrder_pending (s : State) : (rejectOrder s).pending = s.pending := rfl
@[simp] theorem rejectOrder_host (s : State) : (rejectOrder s).host = { s.host with orderRejected := true } := rfl
@[simp] theorem rejectOrder_setup (s : State) : (rejectOrder s).setup = s.setup := rfl
@[simp] theorem rejectOrder_seq (s : State) : (rejectOrder s).seq = s.seq := rfl
@[simp] theorem rejectOrder_reports (s : State) : (rejectOrder s).reports = s.reports := rfl
@[simp] theorem rejectOrder_banks (s : State) : (rejectOrder s).banks = s.banks := rfl
@[simp] theorem rejectOrder_motion (s : State) : (rejectOrder s).motion = s.motion := rfl
@[simp] theorem rejectOrder_events (s : State) : (rejectOrder s).events = s.events := rfl
@[simp] theorem rejectOrder_framer (s : State) : (rejectOrder s).framer = s.framer := rfl
@[simp] theorem rejectOrder_place (s : State) : (rejectOrder s).place = s.place := rfl
@[simp] theorem rejectOrder_health (s : State) : (rejectOrder s).health = s.health := rfl
@[simp] theorem rejectOrder_inputs (s : State) : (rejectOrder s).inputs = s.inputs := rfl
@[simp] theorem rejectOrder_link (s : State) : (rejectOrder s).link = s.link := rfl
@[simp] theorem rejectOrder_power (s : State) : (rejectOrder s).power = s.power := rfl

@[simp] theorem clearStall_pending (s : State) : (clearStall s).pending = s.pending := rfl
@[simp] theorem clearStall_host (s : State) : (clearStall s).host = s.host := rfl
@[simp] theorem clearStall_setup (s : State) : (clearStall s).setup = s.setup := rfl
@[simp] theorem clearStall_seq (s : State) : (clearStall s).seq = s.seq := rfl
@[simp] theorem clearStall_reports (s : State) : (clearStall s).reports = s.reports := rfl
@[simp] theorem clearStall_banks (s : State) : (clearStall s).banks = s.banks := rfl
@[simp] theorem clearStall_motion (s : State) : (clearStall s).motion = { s.motion with stallCount := 0 } := rfl
@[simp] theorem clearStall_events (s : State) : (clearStall s).events = s.events := rfl
@[simp] theorem clearStall_framer (s : State) : (clearStall s).framer = s.framer := rfl
@[simp] theorem clearStall_place (s : State) : (clearStall s).place = s.place := rfl
@[simp] theorem clearStall_health (s : State) : (clearStall s).health = s.health := rfl
@[simp] theorem clearStall_inputs (s : State) : (clearStall s).inputs = s.inputs := rfl
@[simp] theorem clearStall_link (s : State) : (clearStall s).link = s.link := rfl
@[simp] theorem clearStall_power (s : State) : (clearStall s).power = s.power := rfl

@[simp] theorem setMarkers_pending (bots : Bool) (eots : Bool) (s : State) :
    (setMarkers bots eots s).pending = s.pending := rfl
@[simp] theorem setMarkers_host (bots : Bool) (eots : Bool) (s : State) :
    (setMarkers bots eots s).host = s.host := rfl
@[simp] theorem setMarkers_setup (bots : Bool) (eots : Bool) (s : State) :
    (setMarkers bots eots s).setup = s.setup := rfl
@[simp] theorem setMarkers_seq (bots : Bool) (eots : Bool) (s : State) : (setMarkers bots eots s).seq = s.seq := rfl
@[simp] theorem setMarkers_reports (bots : Bool) (eots : Bool) (s : State) :
    (setMarkers bots eots s).reports = s.reports := rfl
@[simp] theorem setMarkers_banks (bots : Bool) (eots : Bool) (s : State) :
    (setMarkers bots eots s).banks = s.banks := rfl
@[simp] theorem setMarkers_motion (bots : Bool) (eots : Bool) (s : State) :
    (setMarkers bots eots s).motion = s.motion := rfl
@[simp] theorem setMarkers_events (bots : Bool) (eots : Bool) (s : State) :
    (setMarkers bots eots s).events = s.events := rfl
@[simp] theorem setMarkers_framer (bots : Bool) (eots : Bool) (s : State) :
    (setMarkers bots eots s).framer = s.framer := rfl
@[simp] theorem setMarkers_place (bots : Bool) (eots : Bool) (s : State) :
    (setMarkers bots eots s).place = s.place := rfl
@[simp] theorem setMarkers_health (bots : Bool) (eots : Bool) (s : State) :
    (setMarkers bots eots s).health = s.health := rfl
@[simp] theorem setMarkers_inputs (bots : Bool) (eots : Bool) (s : State) :
    (setMarkers bots eots s).inputs = { s.inputs with bots := bots, eots := eots } := rfl
@[simp] theorem setMarkers_link (bots : Bool) (eots : Bool) (s : State) :
    (setMarkers bots eots s).link = s.link := rfl
@[simp] theorem setMarkers_power (bots : Bool) (eots : Bool) (s : State) :
    (setMarkers bots eots s).power = s.power := rfl

@[simp] theorem stepCapstan_pending (header : Option (BitVec 64)) (s : State) :
    (stepCapstan header s).pending = s.pending := rfl
@[simp] theorem stepCapstan_host (header : Option (BitVec 64)) (s : State) :
    (stepCapstan header s).host = s.host := rfl
@[simp] theorem stepCapstan_setup (header : Option (BitVec 64)) (s : State) :
    (stepCapstan header s).setup = s.setup := rfl
@[simp] theorem stepCapstan_seq (header : Option (BitVec 64)) (s : State) :
    (stepCapstan header s).seq = s.seq := rfl
@[simp] theorem stepCapstan_reports (header : Option (BitVec 64)) (s : State) :
    (stepCapstan header s).reports = s.reports := rfl
@[simp] theorem stepCapstan_banks (header : Option (BitVec 64)) (s : State) :
    (stepCapstan header s).banks = s.banks := rfl
@[simp] theorem stepCapstan_framer (header : Option (BitVec 64)) (s : State) :
    (stepCapstan header s).framer = { s.framer with
    field := fieldSeen header (stepOnce (ctlEnv s) s.motion) s } := rfl
@[simp] theorem stepCapstan_health (header : Option (BitVec 64)) (s : State) :
    (stepCapstan header s).health = s.health := rfl
@[simp] theorem stepCapstan_inputs (header : Option (BitVec 64)) (s : State) :
    (stepCapstan header s).inputs = s.inputs := rfl
@[simp] theorem stepCapstan_link (header : Option (BitVec 64)) (s : State) :
    (stepCapstan header s).link = s.link := rfl
@[simp] theorem stepCapstan_power (header : Option (BitVec 64)) (s : State) :
    (stepCapstan header s).power = s.power := rfl

@[simp] theorem setSlp_pending (high : Bool) (s : State) : (setSlp high s).pending = s.pending := rfl
@[simp] theorem setSlp_host (high : Bool) (s : State) : (setSlp high s).host = s.host := rfl
@[simp] theorem setSlp_setup (high : Bool) (s : State) : (setSlp high s).setup = s.setup := rfl
@[simp] theorem setSlp_seq (high : Bool) (s : State) : (setSlp high s).seq = s.seq := rfl
@[simp] theorem setSlp_reports (high : Bool) (s : State) : (setSlp high s).reports = s.reports := rfl
@[simp] theorem setSlp_banks (high : Bool) (s : State) : (setSlp high s).banks = s.banks := rfl
@[simp] theorem setSlp_motion (high : Bool) (s : State) : (setSlp high s).motion = s.motion := rfl
@[simp] theorem setSlp_events (high : Bool) (s : State) : (setSlp high s).events = s.events := rfl
@[simp] theorem setSlp_framer (high : Bool) (s : State) : (setSlp high s).framer = s.framer := rfl
@[simp] theorem setSlp_place (high : Bool) (s : State) : (setSlp high s).place = s.place := rfl
@[simp] theorem setSlp_health (high : Bool) (s : State) : (setSlp high s).health = s.health := rfl
@[simp] theorem setSlp_link (high : Bool) (s : State) : (setSlp high s).link = s.link := rfl
@[simp] theorem setSlp_power (high : Bool) (s : State) : (setSlp high s).power = s.power := rfl

@[simp] theorem tickPort_pending (s : State) : (tickPort s).pending = s.pending := rfl
@[simp] theorem tickPort_host (s : State) : (tickPort s).host = s.host := rfl
@[simp] theorem tickPort_setup (s : State) : (tickPort s).setup = s.setup := rfl
@[simp] theorem tickPort_seq (s : State) : (tickPort s).seq = s.seq := rfl
@[simp] theorem tickPort_reports (s : State) : (tickPort s).reports = s.reports := rfl
@[simp] theorem tickPort_banks (s : State) : (tickPort s).banks = s.banks := rfl
@[simp] theorem tickPort_motion (s : State) : (tickPort s).motion = s.motion := rfl
@[simp] theorem tickPort_events (s : State) : (tickPort s).events = s.events := rfl
@[simp] theorem tickPort_framer (s : State) : (tickPort s).framer = s.framer := rfl
@[simp] theorem tickPort_place (s : State) : (tickPort s).place = s.place := rfl
@[simp] theorem tickPort_health (s : State) : (tickPort s).health = s.health := rfl
@[simp] theorem tickPort_inputs (s : State) : (tickPort s).inputs = s.inputs := rfl
@[simp] theorem tickPort_link (s : State) : (tickPort s).link = s.link := rfl

@[simp] theorem loadDataCrc_pending (data : List Byte) (s : State) : (loadDataCrc data s).pending = s.pending := rfl
@[simp] theorem loadDataCrc_host (data : List Byte) (s : State) : (loadDataCrc data s).host = s.host := rfl
@[simp] theorem loadDataCrc_setup (data : List Byte) (s : State) : (loadDataCrc data s).setup = s.setup := rfl
@[simp] theorem loadDataCrc_seq (data : List Byte) (s : State) : (loadDataCrc data s).seq = s.seq := rfl
@[simp] theorem loadDataCrc_reports (data : List Byte) (s : State) : (loadDataCrc data s).reports = s.reports := rfl
@[simp] theorem loadDataCrc_banks (data : List Byte) (s : State) : (loadDataCrc data s).banks = s.banks := rfl
@[simp] theorem loadDataCrc_motion (data : List Byte) (s : State) : (loadDataCrc data s).motion = s.motion := rfl
@[simp] theorem loadDataCrc_events (data : List Byte) (s : State) : (loadDataCrc data s).events = s.events := rfl
@[simp] theorem loadDataCrc_place (data : List Byte) (s : State) : (loadDataCrc data s).place = s.place := rfl
@[simp] theorem loadDataCrc_health (data : List Byte) (s : State) : (loadDataCrc data s).health = s.health := rfl
@[simp] theorem loadDataCrc_inputs (data : List Byte) (s : State) : (loadDataCrc data s).inputs = s.inputs := rfl
@[simp] theorem loadDataCrc_link (data : List Byte) (s : State) : (loadDataCrc data s).link = s.link := rfl
@[simp] theorem loadDataCrc_power (data : List Byte) (s : State) : (loadDataCrc data s).power = s.power := rfl

@[simp] theorem linkError_pending (s : State) : (linkError s).pending = s.pending := rfl
@[simp] theorem linkError_host (s : State) : (linkError s).host = s.host := rfl
@[simp] theorem linkError_setup (s : State) : (linkError s).setup = s.setup := rfl
@[simp] theorem linkError_seq (s : State) : (linkError s).seq = s.seq := rfl
@[simp] theorem linkError_reports (s : State) : (linkError s).reports = s.reports := rfl
@[simp] theorem linkError_banks (s : State) : (linkError s).banks = s.banks := rfl
@[simp] theorem linkError_motion (s : State) : (linkError s).motion = s.motion := rfl
@[simp] theorem linkError_events (s : State) : (linkError s).events = s.events := rfl
@[simp] theorem linkError_framer (s : State) : (linkError s).framer = s.framer := rfl
@[simp] theorem linkError_place (s : State) : (linkError s).place = s.place := rfl
@[simp] theorem linkError_health (s : State) : (linkError s).health = s.health := rfl
@[simp] theorem linkError_inputs (s : State) : (linkError s).inputs = s.inputs := rfl
@[simp] theorem linkError_power (s : State) : (linkError s).power = s.power := rfl

@[simp] theorem clearLinkError_pending (s : State) : (clearLinkError s).pending = s.pending := rfl
@[simp] theorem clearLinkError_host (s : State) : (clearLinkError s).host = s.host := rfl
@[simp] theorem clearLinkError_setup (s : State) : (clearLinkError s).setup = s.setup := rfl
@[simp] theorem clearLinkError_seq (s : State) : (clearLinkError s).seq = s.seq := rfl
@[simp] theorem clearLinkError_reports (s : State) : (clearLinkError s).reports = s.reports := rfl
@[simp] theorem clearLinkError_banks (s : State) : (clearLinkError s).banks = s.banks := rfl
@[simp] theorem clearLinkError_motion (s : State) : (clearLinkError s).motion = s.motion := rfl
@[simp] theorem clearLinkError_events (s : State) : (clearLinkError s).events = s.events := rfl
@[simp] theorem clearLinkError_framer (s : State) : (clearLinkError s).framer = s.framer := rfl
@[simp] theorem clearLinkError_place (s : State) : (clearLinkError s).place = s.place := rfl
@[simp] theorem clearLinkError_health (s : State) : (clearLinkError s).health = s.health := rfl
@[simp] theorem clearLinkError_inputs (s : State) : (clearLinkError s).inputs = s.inputs := rfl
@[simp] theorem clearLinkError_power (s : State) : (clearLinkError s).power = s.power := rfl

@[simp] theorem dropPair_pending (s : State) : (dropPair s).pending = s.pending := rfl
@[simp] theorem dropPair_host (s : State) : (dropPair s).host = s.host := rfl
@[simp] theorem dropPair_setup (s : State) : (dropPair s).setup = s.setup := rfl
@[simp] theorem dropPair_seq (s : State) : (dropPair s).seq = s.seq := rfl
@[simp] theorem dropPair_reports (s : State) : (dropPair s).reports = s.reports := rfl
@[simp] theorem dropPair_banks (s : State) : (dropPair s).banks = s.banks := rfl
@[simp] theorem dropPair_motion (s : State) : (dropPair s).motion = s.motion := rfl
@[simp] theorem dropPair_events (s : State) : (dropPair s).events = s.events := rfl
@[simp] theorem dropPair_framer (s : State) : (dropPair s).framer = s.framer := rfl
@[simp] theorem dropPair_place (s : State) : (dropPair s).place = s.place := rfl
@[simp] theorem dropPair_health (s : State) : (dropPair s).health = s.health := rfl
@[simp] theorem dropPair_inputs (s : State) : (dropPair s).inputs = s.inputs := rfl
@[simp] theorem dropPair_power (s : State) : (dropPair s).power = s.power := rfl

@[simp] theorem takeField_pending (s : State) : (takeField s).pending = s.pending := rfl
@[simp] theorem takeField_host (s : State) : (takeField s).host = s.host := rfl
@[simp] theorem takeField_setup (s : State) : (takeField s).setup = s.setup := rfl
@[simp] theorem takeField_seq (s : State) : (takeField s).seq = s.seq := rfl
@[simp] theorem takeField_reports (s : State) : (takeField s).reports = s.reports := rfl
@[simp] theorem takeField_banks (s : State) : (takeField s).banks = s.banks := rfl
@[simp] theorem takeField_motion (s : State) : (takeField s).motion = s.motion := rfl
@[simp] theorem takeField_events (s : State) : (takeField s).events = s.events := rfl
@[simp] theorem takeField_place (s : State) : (takeField s).place = s.place := rfl
@[simp] theorem takeField_health (s : State) : (takeField s).health = s.health := rfl
@[simp] theorem takeField_inputs (s : State) : (takeField s).inputs = s.inputs := rfl
@[simp] theorem takeField_link (s : State) : (takeField s).link = s.link := rfl
@[simp] theorem takeField_power (s : State) : (takeField s).power = s.power := rfl
@[simp] theorem takeField_framer (s : State) : (takeField s).framer = { s.framer with field := none } := rfl

@[simp] theorem onFrame_pending (f : FrameRegs → FrameRegs) (s : State) : (onFrame f s).pending = s.pending := rfl
@[simp] theorem onFrame_host (f : FrameRegs → FrameRegs) (s : State) : (onFrame f s).host = s.host := rfl
@[simp] theorem onFrame_setup (f : FrameRegs → FrameRegs) (s : State) : (onFrame f s).setup = s.setup := rfl
@[simp] theorem onFrame_seq (f : FrameRegs → FrameRegs) (s : State) : (onFrame f s).seq = s.seq := rfl
@[simp] theorem onFrame_reports (f : FrameRegs → FrameRegs) (s : State) : (onFrame f s).reports = s.reports := rfl
@[simp] theorem onFrame_banks (f : FrameRegs → FrameRegs) (s : State) : (onFrame f s).banks = s.banks := rfl
@[simp] theorem onFrame_motion (f : FrameRegs → FrameRegs) (s : State) : (onFrame f s).motion = s.motion := rfl
@[simp] theorem onFrame_events (f : FrameRegs → FrameRegs) (s : State) : (onFrame f s).events = s.events := rfl
@[simp] theorem onFrame_framer (f : FrameRegs → FrameRegs) (s : State) : (onFrame f s).framer = s.framer := rfl
@[simp] theorem onFrame_place (f : FrameRegs → FrameRegs) (s : State) : (onFrame f s).place = s.place := rfl
@[simp] theorem onFrame_health (f : FrameRegs → FrameRegs) (s : State) : (onFrame f s).health = s.health := rfl
@[simp] theorem onFrame_inputs (f : FrameRegs → FrameRegs) (s : State) : (onFrame f s).inputs = s.inputs := rfl
@[simp] theorem onFrame_power (f : FrameRegs → FrameRegs) (s : State) : (onFrame f s).power = s.power := rfl
@[simp] theorem onFrame_link (f : FrameRegs → FrameRegs) (s : State) :
    (onFrame f s).link = { s.link with frame := f s.link.frame } := rfl

end Sys2Proof.Machine
end

