-- ==== Sys2Proof/Laws/Link.lean ====
section
/-! SUPPORT. The link's input register (R159, R160): the bits of a frame arrive whole, however its edges are divided
among commands, and the operation and the item are read from them. -/

namespace Sys2Proof.Machine

/-! ### Shifting -/

@[simp] theorem shiftBits_zero (w : Sent) (k : Nat) (reg : BitVec 24) : shiftBits w 0 k reg = reg := rfl

theorem shiftBits_add (w : Sent) (m n k : Nat) (reg : BitVec 24) :
    shiftBits w (m + n) k reg = shiftBits w n (k + m) (shiftBits w m k reg) := by
  induction m generalizing k reg with
  | zero => simp
  | succ m ih =>
    rw [Nat.succ_add_eq_add_succ, Nat.add_succ, shiftBits, ih, shiftBits]
    congr 1; omega

theorem shiftBits_first (w : Sent) (k : Nat) (h : k ≤ 24) : shiftBits w k 0 0#24 = w.bits >>> (24 - k) := by
  induction k with
  | zero => ext i hi; simp
  | succ k ih =>
    rw [shiftBits_add, ih (by omega)]
    ext i hi
    cases i with
    | zero =>
      have : 24 - (k + 1) = 23 - k := by omega
      simp [shiftBits, edgeBit, bit, this, show k < 24 by omega, BitVec.getLsbD]
      cases w.bits.toNat.testBit (23 - k) <;> rfl
    | succ i =>
      have : 24 - k + i = 24 - (k + 1) + (i + 1) := by omega
      simp [shiftBits, bit, this]

theorem shiftBits_whole (w : Sent) : shiftBits w 24 0 0#24 = w.bits := by
  rw [shiftBits_first w 24 (by omega)]; simp

/-! ### What the 24 bits say -/

theorem extract_bytes (a b c : Byte) : (a ++ b ++ c).extractLsb' 16 8 = a ∧ (a ++ b ++ c).extractLsb' 8 8 = b ∧
    (a ++ b ++ c).extractLsb' 0 8 = c := by
  refine ⟨?_, ?_, BitVec.extractLsb'_append_eq_right⟩
  · rw [BitVec.extractLsb'_append_eq_of_le (by decide)]; exact BitVec.extractLsb'_append_eq_left
  · rw [BitVec.extractLsb'_append_eq_of_le (by decide)]; exact BitVec.extractLsb'_append_eq_right

theorem append_halves (v : BitVec 16) : v.extractLsb' 8 8 ++ v.extractLsb' 0 8 = v := by
  apply BitVec.eq_of_getLsbD_eq
  intro i hi
  rw [BitVec.getLsbD_append]
  split
  · simp; omega
  · rw [BitVec.getLsbD_extractLsb', show 8 + (i - 8) = i by omega]; simp; omega

theorem regByte0_frameBits (op : LinkOp) (f : FrameBits) :
    regByte0 (frameBits op f) = linkOpCode op ++ f.item ++ bit f.parity := (extract_bytes _ _ _).1

/-- The register of a whole frame names the operation that its sender spelled. -/
@[simp] theorem byteOp_frameBits (op : LinkOp) (f : FrameBits) : byteOp (regByte0 (frameBits op f)) = op := by
  have h : (linkOpCode op ++ f.item ++ bit f.parity : Byte).extractLsb' 6 2 = linkOpCode op :=
    (BitVec.extractLsb'_append_eq_of_le (by decide)).trans BitVec.extractLsb'_append_eq_left
  rw [regByte0_frameBits, byteOp, h]
  cases op <;> rfl

@[simp] theorem byteItem_frameBits (op : LinkOp) (f : FrameBits) : byteItem (regByte0 (frameBits op f)) = f.item := by
  rw [regByte0_frameBits]
  exact (BitVec.extractLsb'_append_eq_of_le (by decide)).trans BitVec.extractLsb'_append_eq_right

@[simp] theorem regValue_frameBits (op : LinkOp) (f : FrameBits) : regValue (frameBits op f) = f.value := by
  have h := extract_bytes (linkOpCode op ++ f.item ++ bit f.parity) (f.value.extractLsb' 0 8) (f.value.extractLsb' 8 8)
  exact (congr (congrArg HAppend.hAppend h.2.2) h.2.1).trans (append_halves _)

theorem frameValid_eq (op : LinkOp) (f : FrameBits) :
    frameValid op f = (decide (f.edges = 24) && oddOnes (frameBits op f) && itemAllowed op f.item) := by
  simp [frameValid, regValid]

/-! ### Frames -/

/-- A frame's registers after its first edges: the bits shifted in, the summary of the select, and the snapshot and the
pair capture once the 8th edge has come. -/
theorem clockEdges_selectFrame (w : Sent) (e : Nat) (s : State) :
    clockEdges w e (selectFrame s) = onFrame (fun _ => {
      selected := true, summary := healthSummary s, edges := e, shiftIn := shiftBits w e 0 0#24
      clock := false
      snapshot := if 8 ≤ e then byteSnapshot (regByte0 w.bits) s else 0
      pair := if 8 ≤ e then bytePair (regByte0 w.bits) s else none }) s := by
  by_cases h : 8 ≤ e
  · have h0 : (shiftTo w 8 (selectFrame s)).link.frame.shiftIn.extractLsb' 0 8 = regByte0 w.bits := by
      show (shiftBits w 8 0 0#24).extractLsb' 0 8 = _
      rw [shiftBits_first w 8 (by decide)]
      apply BitVec.eq_of_getLsbD_eq
      intro i hi
      simp [regByte0]
    have h1 : shiftBits w (e - 8) 8 (shiftBits w 8 0 0#24) = shiftBits w e 0 0#24 := by
      rw [← Nat.zero_add 8, ← shiftBits_add, Nat.zero_add, Nat.add_sub_cancel' h]
    rw [clockEdges, if_pos ⟨Nat.zero_lt_succ 7, h⟩, takeSnapshot, h0]
    simp only [if_pos h, ← h1]
    show onFrame _ _ = _
    simp only [onFrame, shiftTo, selectFrame, FrameRegs.blank]
    simp [Nat.max_eq_right h]
    exact ⟨rfl, rfl⟩
  · rw [clockEdges, if_neg (by omega)]
    simp [onFrame, shiftTo, selectFrame, FrameRegs.blank, h]

theorem shiftTo_shiftTo (w : Sent) {d e : Nat} (h : d ≤ e) (s : State) :
    shiftTo w e (shiftTo w d (selectFrame s)) = shiftTo w e (selectFrame s) := by
  have join : shiftBits w (e - d) d (shiftBits w d 0 0#24) = shiftBits w e 0 0#24 := by
    have split := shiftBits_add w d (e - d) 0 0
    rw [Nat.zero_add, Nat.add_sub_cancel' h] at split
    exact split.symm
  simp [onFrame, shiftTo, selectFrame, FrameRegs.blank, join, Nat.max_eq_right h]

/-- A frame's registers after its edges do not depend on where the edges were divided. -/
theorem clockEdges_clockEdges (w : Sent) {d e : Nat} (h : d ≤ e) (s : State) :
    clockEdges w e (clockEdges w d (selectFrame s)) = clockEdges w e (selectFrame s) := by
  by_cases hd : 8 ≤ d
  · have join := congrArg (fun t => t.link.frame.shiftIn) (shiftTo_shiftTo w h s)
    rw [clockEdges_selectFrame w d, clockEdges_selectFrame w e, clockEdges, if_neg (by simp [onFrame]; omega)]
    simp [onFrame, shiftTo, selectFrame, FrameRegs.blank] at join
    simp [onFrame, shiftTo, join, hd, Nat.le_trans hd h, Nat.max_eq_right h]
  · have low : clockEdges w d (selectFrame s) = shiftTo w d (selectFrame s) := if_neg fun g => hd g.2
    have edges : (shiftTo w d (selectFrame s)).link.frame.edges = d := Nat.zero_max d
    rw [low]
    by_cases he : 8 ≤ e
    · rw [clockEdges, clockEdges, if_pos ⟨by omega, he⟩, if_pos ⟨Nat.zero_lt_succ 7, he⟩, shiftTo_shiftTo w (by omega)]
    · rw [clockEdges, clockEdges, if_neg fun g => he g.2, if_neg fun g => he g.2, shiftTo_shiftTo w h]

/-- A frame's registers after its edges, with LCLK left at a level. -/
theorem clockFrame_selectFrame (w : Sent) (e : Nat) (high : Bool) (s : State) :
    clockFrame w e high (selectFrame s) = onFrame (fun _ => {
      selected := true, summary := healthSummary s, edges := e, shiftIn := shiftBits w e 0 0#24
      clock := high && decide (0 < e)
      snapshot := if 8 ≤ e then byteSnapshot (regByte0 w.bits) s else 0
      pair := if 8 ≤ e then bytePair (regByte0 w.bits) s else none }) s := by
  rw [clockFrame, clockEdges_selectFrame]
  simp [setClock, onFrame, selectFrame, FrameRegs.blank]
  rfl

theorem clockEdges_setClock (w : Sent) (e : Nat) (rose high : Bool) (s : State) :
    clockEdges w e (setClock rose high s) = onFrame (fun r => { r with clock := high && (rose || s.link.frame.clock) })
      (clockEdges w e s) := by
  unfold clockEdges
  by_cases h : s.link.frame.edges < 8 ∧ 8 ≤ e
  · rw [if_pos h, if_pos (by exact h)]; rfl
  · rw [if_neg h, if_neg (by exact h)]; rfl

/-- A frame's registers after its edges do not depend on where the edges were divided, LCLK standing at one level. -/
theorem clockFrame_clockFrame (w : Sent) {d e : Nat} (high : Bool) (h : d ≤ e) (s : State) :
    clockFrame w e high (clockFrame w d high (selectFrame s)) = clockFrame w e high (selectFrame s) := by
  have twice := clockEdges_clockEdges w h s
  rw [clockFrame, clockFrame, clockFrame, clockEdges_setClock, twice, clockEdges_selectFrame, clockEdges_selectFrame]
  simp only [setClock, onFrame, selectFrame, FrameRegs.blank]
  have : (decide (d < e) || decide (0 < d)) = decide (0 < e) := by
    rcases Nat.eq_or_lt_of_le h with rfl | h'
    · simp
    · have : 0 < e := by omega
      simp [h', this]
  cases high
  · simp
  · simp
    exact this

/-- R53: alone at its instant, a deselect only judges the frame. -/
theorem deselectFrame_alone (s : State) :
    deselectFrame none .nothing s = judgeFrame (onFrame (fun r => { r with selected := false }) s) := by
  simp [deselectFrame]

/-- What a whole frame alone in its step does: its bits judge it and carry it out. -/
theorem linkFrame_alone (op : LinkOp) (f : FrameBits) (s : State) (h : Alone f s) :
    linkFrame (frameSent op f) f s =
      let r := onFrame (fun r => { r with selected := false })
        (clockFrame (frameSent op f) f.edges f.clock (selectFrame s))
      if !frameValid op f then linkError r
      else if s.power.state = .sleep then commitAsleep op f.item f.value (dropPair (clearLinkError r))
      else commitFrame op f.item f.value (installPair (clearLinkError r)) := by
  obtain ⟨part, host, beside, idle⟩ := h
  have twice := clockFrame_clockFrame (frameSent op f) f.clock (Nat.le_refl f.edges) s
  rw [linkFrame, part]
  simp only [openFrame, idle, Bool.false_eq_true, if_false, closeFrame, twice]
  rw [clockFrame_selectFrame]
  simp only [onFrame_link, if_true, host, beside, deselectFrame_alone, judgeFrame]
  by_cases e : f.edges = 24
  · simp [e, shiftBits_whole, frameSent, frameValid]
  · simp [e, frameValid, regValid]

end Sys2Proof.Machine
end

