-- ==== Sys2Proof/Laws/Settle.lean ====
section
/-! SUPPORT. What settling does: nothing in a steady state, and no event is ever left (log 6). -/

namespace Sys2Proof.Machine

/-- Nothing is due. -/
theorem settle_none {s : State} (h : settleStep s = none) : settle s = s := by
  simp [settle, Config.settleFuel, settleFor, h]

/-- Nothing is due in a steady state. -/
theorem settleStep_steady {s : State} (h : Steady s) : settleStep s = none := by
  obtain ⟨he, hp, ha⟩ := h
  unfold settleStep
  rw [he]
  cases hA : s.seq.active with
  | none =>
    rw [hA] at ha; simp at ha
    simp [deferredDue, headReady, resumeDue, writeWaitDue, hA, ha, hp]
  | some a =>
    rw [hA] at ha; simp at ha
    simp only [deferredDue, headReady, resumeDue, writeWaitDue, hA]
    cases hq : s.seq.queue <;> simp [ha.1, ha.2]

/-- A steady state is left as it is. -/
theorem settle_steady {s : State} (h : Steady s) : settle s = s := settle_none (settleStep_steady h)

/-- One consequence is due and then none. -/
theorem settle_two {s t : State} (h : settleStep s = some t) (h2 : settleStep t = none) : settle s = t := by
  simp [settle, Config.settleFuel, settleFor, h, h2]

/-- Nothing due means no event waits. -/
theorem settleStep_none {s : State} (h : settleStep s = none) : s.events = [] := by
  unfold settleStep at h; split at h
  · cases h
  · assumption

/-- No event is left (log 6). -/
theorem settleFor_events (n : Nat) : ∀ s, (settleFor n s).events = [] := by
  induction n with
  | zero => intro s; rfl
  | succ n ih =>
    intro s; unfold settleFor; split
    · rename_i h; exact settleStep_none h
    · exact ih _

/-- No event is left after a command settles (log 6). -/
theorem settle_events (s : State) : (settle s).events = [] := settleFor_events _ _

/-- The head departs where it may and no event waits. -/
theorem settleStep_depart {s : State} (he : s.events = []) (hd : deferredDue s = false) (hr : headReady s = true) :
    settleStep s = some (depart s) := by
  unfold settleStep; simp [he, hd, hr]

/-- An order that waits for nothing is steady. -/
theorem steady_of {s : State} {a : Active} (he : s.events = []) (hp : s.power.state ≠ .sleepPending) (ha : s.seq.active = some a) (h1 : a.phase ≠ .waitBank) (h2 : a.phase ≠ .repWait) : Steady s :=
  ⟨he, hp, by rw [ha]; exact ⟨h1, h2⟩⟩

/-- An event after which nothing follows in a calm phase. -/
def quiet : MotionEvent → Bool
  | .atRate _ => true
  | .stepped => true
  | _ => false

/-- A phase in which a step has no consequence of its own. -/
def calm (p : Phase) : Bool := match p with
  | .scan => false | .scanBack => false | .confirm => false | .waitBank => false | .repWait => false | _ => true

/-- R64: no header field has ended with the step. -/
def headerless (f : Framer) : Prop := f.field.bind FieldPlace.bits = none

theorem stepHeader_headerless {s : State} (h : headerless s.framer) : stepHeader s = s := by
  unfold stepHeader fieldEnds headerless at *
  split
  · rfl
  · rename_i p hp
    split at hp
    · cases hp
    · rw [hp] at h
      simp at h
      rw [h]

/-- A step in a calm phase with nothing recorded and no header. -/
theorem stepped_id {s : State} {a : Active} (ha : s.seq.active = some a) (hw : s.framer.writer = .idle)
    (hh : headerless s.framer) (hp : calm a.phase = true) : onStepped s = s := by
  have e1 : writerStep s = s := by simp [writerStep, closeWindow, hw]
  have e2 : phaseStep s = s := by
    unfold phaseStep; rw [ha]
    simp only
    split <;> simp_all [calm]
  have e3 : gapStep s = s := by
    unfold gapStep; rw [ha]
    simp only
    split <;> simp_all [calm]
  simp [onStepped, e1, e2, stepHeader_headerless hh, e3, gateRaised]

/-- A quiet event in a calm phase. -/
theorem quiet_id {s : State} {a : Active} {e : MotionEvent} (hq : quiet e = true) (ha : s.seq.active = some a)
    (hw : s.framer.writer = .idle) (hh : headerless s.framer) (hp : calm a.phase = true) :
    onEvent e s = s := by
  cases e <;> simp [quiet] at hq
  · rfl
  · exact stepped_id ha hw hh hp

/-- Quiet events in a calm phase are only consumed. -/
theorem settleFor_quiet {a : Active} : ∀ (l : List MotionEvent) (n : Nat) (s : State), s.events = l → l.length < n → (∀ e ∈ l, quiet e = true) →
    s.seq.active = some a → s.framer.writer = .idle → headerless s.framer → calm a.phase = true → s.power.state ≠ .sleepPending → settleFor n s = { s with events := [] } := by
  intro l
  induction l with
  | nil =>
    intro n s he hn hq ha hw hh hp hs
    have hst : Steady s := ⟨he, hs, by rw [ha]; simp [calm] at hp ⊢; split at hp <;> simp_all⟩
    have : ({ s with events := [] } : State) = s := by rw [← he]
    rw [this]
    cases n with
    | zero => simp at hn
    | succ n => unfold settleFor; rw [settleStep_steady hst]
  | cons e l ih =>
    intro n s he hn hq ha hw hh hp hs
    cases n with
    | zero => simp at hn
    | succ n =>
      unfold settleFor
      have : settleStep s = some { s with events := l } := by
        unfold settleStep; rw [he]; simp only
        exact congrArg some (quiet_id (s := { s with events := l }) (a := a) (hq e (by simp)) ha hw hh hp)
      rw [this]; simp only
      rw [ih n { s with events := l } rfl (by simp at hn; omega) (fun x hx => hq x (by simp [hx])) ha hw hh hp hs]

/-- Quiet events in a calm phase are only consumed. -/
theorem settle_quiet {a : Active} {s : State} (hl : s.events.length ≤ 60) (hq : ∀ e ∈ s.events, quiet e = true)
    (ha : s.seq.active = some a) (hw : s.framer.writer = .idle) (hh : headerless s.framer) (hp : calm a.phase = true)
    (hs : s.power.state ≠ .sleepPending) : settle s = { s with events := [] } :=
  settleFor_quiet _ _ s rfl (by unfold Config.settleFuel; omega) hq ha hw hh hp hs

end Sys2Proof.Machine
end

