-- ==== Sys2Proof/Laws/Steps.lean ====
section
/-! SUPPORT. What a capstan step keeps and counts, and how a stop begins. -/

namespace Sys2Proof.Machine

/-- The counter, the reference and the direction of the last step are kept. -/
structure Kept (m n : Motion) : Prop where
  tick : n.tick = m.tick
  ref : n.refValid = m.refValid
  last : n.lastDir = m.lastDir

theorem Kept.refl {m : Motion} : Kept m m := ⟨rfl, rfl, rfl⟩

theorem Kept.trans {a b c : Motion} (h : Kept a b) (k : Kept b c) : Kept a c := ⟨k.1.trans h.1, k.2.trans h.2, k.3.trans h.3⟩

/-- R78 to R80: a ramp keeps the counter. -/
theorem rampStep_kept (c : Setup) (m : Motion) : Kept m (rampStep c m).motion := by
  have hp : ∀ x, Kept x (planStop c x).1 := by
    intro x; unfold planStop; split
    · exact .refl
    · split <;> exact ⟨rfl, rfl, rfl⟩
  unfold rampStep; simp only
  split
  · unfold brakeStep; split <;> exact ⟨rfl, rfl, rfl⟩
  · refine Kept.trans ?_ (hp _)
    split
    · unfold riseStep; split
      · split
        · simp only; split <;> exact ⟨rfl, rfl, rfl⟩
        · exact ⟨rfl, rfl, rfl⟩
      · exact .refl
    · unfold fallStep; split
      · simp only; split <;> exact ⟨rfl, rfl, rfl⟩
      · exact .refl
    · exact ⟨rfl, rfl, rfl⟩

/-- R81: a rest keeps the counter. -/
theorem restNow_kept (m : Motion) : Kept m (restNow m).motion := by
  unfold restNow; split <;> exact ⟨rfl, rfl, rfl⟩

/-- R81: a stop that begins keeps the counter. -/
theorem beginStop_kept (c : Setup) (m : Motion) : Kept m (beginStop c m).motion := by
  unfold beginStop; simp only; split
  · exact ⟨(restNow_kept _).1, (restNow_kept _).2, (restNow_kept _).3⟩
  · exact ⟨rfl, rfl, rfl⟩

/-- R91, R92: the close of a step keeps the counter and hands the step. -/
theorem closeStep_kept (c : Setup) (p : List MotionEvent) (n : Nat) (o : Ctl) :
    Kept o.motion (closeStep c p n o).motion ∧ .stepped ∈ (closeStep c p n o).events := by
  unfold closeStep; split
  · exact ⟨⟨rfl, rfl, rfl⟩, by simp⟩
  · exact ⟨.refl, by simp⟩

/-- The end of a step keeps the counter and hands the step. -/
theorem endStep_kept (c : Setup) (p : List MotionEvent) (r : Ramp) : Kept r.motion (endStep c p r).motion ∧ .stepped ∈ (endStep c p r).events := by
  have h := closeStep_kept c (r.rate ++ p) r.motion.stallCount
    (if r.arrived then restNow r.motion else { motion := r.motion, events := [] })
  refine ⟨Kept.trans ?_ h.1, h.2⟩
  split
  · exact restNow_kept _
  · exact .refl

/-- A step that begins a stop keeps the counter and hands the step. -/
theorem stopStep_kept (c : Setup) (p : List MotionEvent) (m : Motion) : Kept m (stopStep c p m).motion ∧ .stepped ∈ (stopStep c p m).events :=
  ⟨Kept.trans (beginStop_kept c m) (closeStep_kept _ _ _ _).1, (closeStep_kept _ _ _ _).2⟩

/-- R86, R92: a step away from the zeroing edge counts once and is handed. -/
theorem stepOnce_none (e : CtlEnv) (m : Motion) (h : ¬ (m.seek = .seeking ∧ m.toRest = false ∧ e.bots = true)) :
    Kept (countStep m) (stepOnce e m).motion ∧ .stepped ∈ (stepOnce e m).events := by
  have hr : ∀ (p : List MotionEvent), Kept (countStep m) (endStep e.setup p (rampStep e.setup (countStep m))).motion ∧ .stepped ∈ (endStep e.setup p (rampStep e.setup (countStep m))).events :=
    fun p => ⟨Kept.trans (rampStep_kept _ _) (endStep_kept _ _ _).1, (endStep_kept _ _ _).2⟩
  have hseek : Kept (countStep m) (seekStep e (countStep m)).motion ∧ .stepped ∈ (seekStep e (countStep m)).events := by
    have h1 : (countStep m).toRest = m.toRest := rfl
    have h2 : (countStep m).seek = m.seek := rfl
    unfold seekStep
    split
    · rename_i hz
      exfalso; apply h
      rw [h2, h1] at hz
      simp at hz
      exact ⟨hz.1.1, hz.1.2, hz.2⟩
    · split
      · have := stopStep_kept e.setup (firstRate (countStep m) ++ [.boundary .seekExhausted]) (seekOver (countStep m))
        exact ⟨⟨this.1.1, this.1.2, this.1.3⟩, this.2⟩
      · split
        · have := stopStep_kept e.setup (firstRate (countStep m)) { countStep m with waiting := some (.seek (countStep m).wanted) }
          exact ⟨⟨this.1.1, this.1.2, this.1.3⟩, this.2⟩
        · exact hr _
  unfold stepOnce; simp only
  split
  · exact hseek
  · exact hseek
  · exact hr _
  · split
    · exact hr _
    · rename_i r hb
      unfold boundaryStep; simp only
      split
      · have := endStep_kept e.setup (firstRate (countStep m) ++ [.boundary r]) { rampStep e.setup (countStep m) with motion := markBoundary (rampStep e.setup (countStep m)).motion r }
        exact ⟨Kept.trans (rampStep_kept e.setup _) ⟨this.1.1, this.1.2, this.1.3⟩, this.2⟩
      · have := stopStep_kept e.setup (firstRate (countStep m) ++ [.boundary r]) (markBoundary (countStep m) r)
        exact ⟨⟨this.1.1, this.1.2, this.1.3⟩, this.2⟩

/-- R88: the zeroing step. -/
theorem stepOnce_zero (e : CtlEnv) (m : Motion) (h : m.seek = .seeking ∧ m.toRest = false ∧ e.bots = true) :
    Kept (zeroStep (countStep m)) (stepOnce e m).motion := by
  obtain ⟨h1, h2, h3⟩ := h
  have : stepOnce e m = stopStep e.setup (.zeroed :: firstRate (countStep m)) (zeroStep (countStep m)) := by
    unfold stepOnce; simp only [h1]
    unfold seekStep
    have a1 : (countStep m).toRest = false := h2
    have a2 : (countStep m).seek = .seeking := h1
    simp [a1, a2, h3]
  rw [this]; exact (stopStep_kept _ _ _).1

/-- R86: a forward step counts up. -/
theorem count_pos_fwd (m : Motion) (h : m.dir = .forward) (hb : m.pos < 8388607) : (countStep m).pos = m.pos + 1 := by
  have : (countStep m).tick = m.tick + 1 := by simp [countStep, h]
  unfold Motion.pos at *
  rw [this, BitVec.toInt_add]
  have h1 := BitVec.le_toInt m.tick
  have h2 : BitVec.toInt (1 : BitVec 24) = 1 := by decide
  rw [h2, Int.bmod_def]; simp at h1 ⊢; omega

/-- R86: a reverse step counts down. -/
theorem count_pos_rev (m : Motion) (h : m.dir = .reverse) (hb : -8388608 < m.pos) : (countStep m).pos = m.pos - 1 := by
  have : (countStep m).tick = m.tick - 1 := by simp [countStep, h]
  unfold Motion.pos at *
  rw [this, BitVec.toInt_sub]
  have h1 := BitVec.toInt_lt (x := m.tick)
  have h2 : BitVec.toInt (1 : BitVec 24) = 1 := by decide
  rw [h2, Int.bmod_def]; simp at h1 ⊢; omega

/-- R97: a hand-over that keeps the reference keeps the position. -/
theorem anchored_place {s : State} (h : Anchored s) (m : Motion) (hm : m.refValid = s.motion.refValid) :
    ({ s.place with position := if m.refValid then s.place.position else none } : Place) = s.place := by
  rw [hm]
  cases hv : s.motion.refValid with
  | true => simp
  | false =>
    have : s.place.position = none := by
      cases hp : s.place.position with
      | none => rfl
      | some p => have := h (by rw [hp]; rfl); rw [hv] at this; cases this
    cases hP : s.place; simp [hP] at this; subst this; simp

/-- A stop that begins keeps the reference. -/
theorem braked_ref (m : Motion) : m.braked.refValid = m.refValid := rfl

/-- R81: an unplanned stop above START RATE. -/
theorem beginStop_braked {c : Setup} {m : Motion} (h : c.startRate.toNat < m.rate) : beginStop c { m with waiting := none } = { motion := m.braked, events := [] } := by
  unfold beginStop
  rw [if_neg (by simp; omega)]
  rfl

/-- R83: a stop request to a transport above START RATE. -/
theorem requestStop_braked {c : Setup} {m : Motion} (h : c.startRate.toNat < m.rate) (hm : m.moving = true) (ht : m.toRest = false) :
    requestStop c m = { motion := m.halting, events := [] } := by
  have hb : beginStop c { m with waiting := none, overshoot := 0 } = { motion := m.halting, events := [] } :=
    beginStop_braked (m := { m with overshoot := 0 }) h
  unfold requestStop
  unfold Motion.moving at hm
  cases hs : m.state <;> simp [hs] at hm <;> simp [ht] <;> exact hb

/-- R83: the stop of an order under way. -/
theorem askStop_under {s : State} {a : Active} (h : s.seq.active = some a) (h1 : a.snap.startRate.toNat < s.motion.rate) (hm : s.motion.moving = true) (ht : s.motion.toRest = false)
    (hA : Anchored s) : askStop s = { s with motion := s.motion.halting } := by
  unfold askStop
  have hp : profile s = a.snap := by unfold profile; rw [h]; rfl
  rw [hp, requestStop_braked h1 hm ht]
  unfold handOver
  simp only [List.append_nil]
  have := anchored_place hA s.motion.halting rfl
  simp only [this]

end Sys2Proof.Machine
end

