-- ==== Sys2Proof/WellFormed.lean ====
section
/-! DEFINITION. Which commands are well formed: operands that the command's own row admits. No meaning depends on
it; it says what a sender may send. -/

namespace Sys2Proof

/-- The codes of R25 and the three immediate codes (R21): a write of one of these is not an UNKNOWN_CODE. -/
def knownCodes : List Byte :=
  [0x01, 0x02, 0x10, 0x11, 0x12, 0x13, 0x14, 0x18, 0x19, 0x1A, 0x20, 0x21, 0x28, 0x29, 0x2A, 0xE1, 0xE2, 0xEA]

/-- A write through the register window that no other row stands for: SETUP INDEX, or a REPORT CONTROL value that
R48 ignores. -/
def plainRegisterWrite (addr : BitVec 3) (value : Byte) : Bool :=
  addr == 6 || (addr == 3 && value != 0x01 && value != 0x02)

/-- The data lengths a length code can give (R60), and nothing longer than a bank (R118). -/
def captureLength (data : List Byte) : Bool :=
  decide (data.length ≤ 2048)

/-- Well-formed commands. -/
def Instr.wf : Instr → Bool
  | .unknownCode code => !knownCodes.contains code
  | .registerWrite addr value => plainRegisterWrite addr value
  | .captureResult data _ => captureLength data
  | .strobeConflict cs dack _ => cs || dack
  | _ => true

end Sys2Proof
end

