-- ==== Sys2Proof/Tests/Slice0.lean ====
section
/-! SUPPORT. The model's own tests: ill-formed commands refused, the spec's worked values, and for every statement with
premises a state and operands that meet them. -/

namespace Sys2Proof.Tests

open Sys2Proof Sys2Proof.Machine

/-! ### Small states -/

/-- What a command leaves. -/
def after (i : Instr) (s : State) : State := match exec i s with | .next t => t | _ => s

/-- A KNOWN position before block 5 at slot 2000. -/
def at5 : Position := { part := 0, next := 5, slot := 2000, eod := false }

/-- A loaded cartridge, the part idle at tick 3000, the position before block 5. -/
def ready : State :=
  { State.reset with
    place := { State.reset.place with cart := .loaded, position := some at5 }
    motion := { Motion.afterPowerOn with tick := 3000, refValid := true }
    inputs := .sampled { quietPins with cartin := true } }

/-- The same with parameter bytes staged. -/
def staged (params : List Byte) : State := { ready with seq := { ready.seq with staging := params } }

/-- The same with some setup. -/
def withSetup (c : Setup) (s : State) : State := { s with setup := c }

/-- DMA mode. -/
def dma (s : State) : State := withSetup { Setup.defaults with dataPath := 1 } s

/-- An active order. -/
def order (code : Byte) (params : List Byte) (phase : Phase) (stage : Stage) : Active :=
  { newActive ready { tag := 0, code := code, params := params } with phase := phase, stage := stage }

/-- That order under way, forward at STREAM RATE, at a tick. -/
def running (a : Active) (tick : TickWord) : State :=
  { ready with
    seq := { ready.seq with active := some a, tag := 1 }
    motion := { ready.motion with
      state := .cruising, rate := 20, request := some (.run .forward 20), lastDir := some .forward, tick := tick
      steady := 400, run := 400 } }

/-- The same where a header field has just ended under the head (R64). -/
def fieldAt (tick : TickWord) : Framer :=
  { ready.framer with field := some { dir := .forward, tick := tick, bits := none } }

/-- A capstan step alone, with the level of BOTS after it. -/
def stepRow (bots : Bool) : Instr := .capstanStep ⟨bots, false, none⟩ none

/-- A full report queue of some length. -/
def reportsOf (n : Nat) : Reports := { State.reset.reports with stored := List.replicate n .powerOnClean }

/-- Asleep, both sources clear. -/
def asleep : State := { ready with power := { ready.power with state := .sleep } }

/-- RST/ held low. -/
def held : State := after .rstAssertion ready

/-- A bank FULL READ with two bytes, one of them taken. -/
def halfRead : Bank := { Bank.cleared with state := .draining, data := [7, 9], length := 2, moved := 1 }

/-- A DATA header of block 5 of partition 0, length code 3. -/
def block5 : Recording :=
  { kind := .data, origin := 2000, part := 0, number := 5, lengthCode := 3, copy := 0, bank := none }

/-- A whole frame alone, of 24 edges. -/
def frame (item : BitVec 5) (parity : Bool) (value : BitVec 16) : FrameBits :=
  { item := item, parity := parity, value := value, edges := 24, late := [], clock := false, part := .whole, host := none
    beside := .nothing }

/-! ### Ill-formed commands are refused -/

theorem test_wf_refuses_known_code : Instr.wf (.unknownCode 0x10) = false := by decide
theorem test_wf_admits_unknown_code : Instr.wf (.unknownCode 0x7F) = true := by decide
theorem test_wf_refuses_window_write : Instr.wf (.registerWrite 3 0x01) = false := by decide
theorem test_wf_admits_window_write : Instr.wf (.registerWrite 6 0x48) = true := by decide
theorem test_wf_refuses_long_capture : Instr.wf (.captureResult (List.replicate 2049 0) 0) = false := by
  rw [Instr.wf, captureLength, List.length_replicate]; decide
theorem test_wf_refuses_no_strobe : Instr.wf (.strobeConflict false false 0) = false := by decide
theorem test_no_word_spells_a_command : decodeTableWord 16 0x1234 = none := by decide
theorem test_fetch_word_changes_nothing : State.reset.withFetchWord 8 1 = State.reset := by decide

/-! ### The spec's worked values -/

/-- The examples after R62. -/
theorem test_header_examples :
    recordedContent { block5 with part := 2, number := 1000, copy := 1 } = ⟨0x2C, 0x01, 0xE8, 0x03, 0, 0⟩ ∧
    recordedContent { block5 with kind := .fence, lengthCode := 0 } = ⟨0x40, 0, 0x05, 0, 0, 0⟩ ∧
    recordedContent { block5 with kind := .endMark, part := 1, number := 37, lengthCode := 0 } =
      ⟨0x90, 0, 0x25, 0, 0, 0⟩ := by decide

/-- Chapter 4.8: footprints, and block 2 copy 1. -/
theorem test_worked_layout :
    (1000 + footprint .data 3 = 1296 ∧ 2480 + footprint .endMark 0 = 2520) ∧
    recordedContent { block5 with number := 2, copy := 1 } = ⟨0x0C, 0x01, 0x02, 0, 0, 0⟩ := by decide

set_option maxRecDepth 8000 in
/-- A recorded header reads back good, and a changed bit makes it bad. -/
theorem test_header_check :
    (goodHeader (fieldOf (recordedBits block5)) 2000).map Header.number = some 5 ∧
    goodHeader { fieldOf (recordedBits block5) with b2 := 4 } 2000 = none := by decide

/-- The example after R160: the POKE 4Bh, 01h, 00h; chapter 12.4: the PEEK-CLEAR 86h, 00h, 00h and the PING C1h. -/
theorem test_link_frames :
    frameBits .poke (frame 5 true 1) = 0x4B0100#24 ∧ frameBits .peekClear (frame 3 false 0) = 0x860000#24 ∧
    frameBits .ping (frame 0 true 0) = 0xC10000#24 := by decide

/-- Chapter 12.1: the POWER ON report. -/
theorem test_power_on_report :
    State.reset.reports.stored.map Report.bytes = [[0x80, 0, 0x50, 0, 0, 0, 0, 0, 0, 0]] := by decide

/-- R179: the reset state is what a power-on reset makes under the pins of log 1. -/
theorem test_power_on_is_reset : after (.powerOn quietPins) State.reset = State.reset := by decide

/-- Chapter 12.1: INTERRUPT ENABLE 01h drives IRQ/ at once, and the acknowledge releases it. -/
theorem test_interrupt :
    irqActive (after (.interruptEnable 1) State.reset) = true ∧
    irqActive (after .acknowledge (after (.interruptEnable 1) State.reset)) = false := by decide

/-- Chapter 12.1: LOAD of a seated cartridge departs at once: LOADING, in reverse from START RATE, no dwell; the tick is
-1 after the first step. -/
theorem test_load_departs :
    let t := after .load (after (.powerOn { quietPins with cartin := true }) State.reset)
    t.place.cart = .loading ∧ t.motion.dir = .reverse ∧ t.motion.state = .accelerating ∧ t.motion.rate = 4 ∧
      t.motion.tick = 0 ∧ (after (stepRow false) t).motion.tick = -1 := by decide

/-- R88: the zeroing edge sets the counter to 0 and makes the cartridge LOADED (R94). -/
theorem test_zeroing :
    let t := after (stepRow true)
      (after .load (after (.powerOn { quietPins with cartin := true }) State.reset))
    t.motion.tick = 0 ∧ t.motion.refValid = true ∧ t.place.cart = .loaded := by decide

/-- The last step of a LOAD's move to START(0), at START RATE after it. -/
def arriving : State :=
  { running { order 0x10 [] .travel .travel with cause := none } 399 with
    motion := { ready.motion with
      state := .decelerating, decel := .planned, rate := 5, ramp := 3, dir := .forward, tick := 399
      request := some (.moveTo 400 48), lastDir := some .forward }
    reports := reportsOf 0 }

/-- Chapter 12.1: the report of LOAD: 50h, 10h, 00h, 04h and six bytes of 00h. -/
theorem test_load_report :
    (after (stepRow false) arriving).reports.stored.map Report.bytes =
      [[0x50, 0x10, 0, 0x04, 0, 0, 0, 0, 0, 0]] := by decide

/-- Chapter 12.4: the DRIVER fault in a WRITE BLOCKS of 2 (tag 4) ends it with 34h, 28h, 43h, 80h, 02h, ... -/
theorem test_driver_fault_report :
    (after (.healthInputChange ⟨.health .drvflt, .level, none⟩ false)
      { running { order 0x28 [2, 3] .write .scan with entry := { tag := 4, code := 0x28, params := [2, 3] } } 299800 with
        framer := { ready.framer with gate := true, writer := .recording { block5 with origin := 299664, number := 1008 } }
        reports := reportsOf 0 }).reports.stored.map Report.bytes =
      [[0x34, 0x28, 0x43, 0x80, 0x02, 0, 0, 0, 0, 0]] := by decide

set_option maxRecDepth 8000 in
/-- Chapter 12.4: the PEEK-CLEAR of FAULT RECORD shows D1h, 84h, 00h, clears DRIVER and lifts the inhibit. -/
theorem test_peek_clear_answer :
    let t := after (.peekClear (frame 3 false 0))
      { ready with
        health := { ready.health with present := driverBit, recorded := driverBit }
        motion := { ready.motion with state := .inhibited } }
    linkResponse t.link = 0xD18400#24 ∧ t.health.recorded = 0 ∧ t.health.powerOnFlag = true ∧
      t.motion.state = .stopped := by decide

set_option maxRecDepth 8000 in
/-- Chapter 12.4: the PING that follows shows 41h. -/
theorem test_ping_answer :
    linkResponse (after (.ping (frame 0 true 0)) ready).link = 0x410000#24 := by decide

set_option maxRecDepth 8000 in
/-- R168: EMERGENCY STOP and a LOCKOUT POKE of one instant give one report, of the higher cause. -/
theorem test_stop_and_lockout :
    (after (.poke { frame 5 true 1 with host := some (.write 1 0xE2) })
      { running (order 0x12 [0] .travel .travel) 1000 with reports := reportsOf 0 }).reports.stored.map Report.cause =
      [.emergencyStopped] := by decide

set_option maxRecDepth 8000 in
/-- R181: a DEVICE RESET and a POKE that clears SLEEP REQUEST in one instant leave the part ACTIVE. -/
theorem test_reset_and_wake :
    let s : State := { ready with link := { ready.link with sleepReq := true } }
    (after (.poke { frame 6 false 0 with host := some (.write 1 0xEA) }) s).power.state = .active := by decide

/-! ### Further values of the spec, one command each -/

/-- R20: the ninth parameter byte is dropped with PARAM OVERFLOW. -/
theorem test_param_overflow :
    let t := after (.param 9) (staged [1, 2, 3, 4, 5, 6, 7, 8])
    t.seq.staging.length = 8 ∧ t.host.paramOverflow = true := by decide

/-- R22, R32: MARK ends in the step it is written: 50h, 01h, 00h, 04h, next block 5. -/
theorem test_mark_report :
    (after .mark { ready with reports := reportsOf 0 }).reports.stored.map Report.bytes =
      [[0x50, 0x01, 0, 0x04, 0, 0, 0, 5, 0, 0]] := by decide

/-- R30, R51: LOAD of a loaded cartridge fails check 3 with ILLEGAL STATE. -/
theorem test_load_illegal_state :
    (after .load { ready with reports := reportsOf 0 }).reports.stored.map Report.bytes =
      [[0x00, 0x10, 0x31, 0x04, 0, 0, 0, 5, 0, 0]] := by decide

/-- R16, R17: SEARCH RATE (0Ah) takes 63 and refuses 64. -/
theorem test_setup_range :
    let s := after (.registerWrite 6 0x0A) ready
    (after (.setupDataWrite 63) s).setup.searchRate = 63 ∧ (after (.setupDataWrite 64) s).host.setupError = true := by
  decide

/-- R18, R187: IDENTITY 7201h reads its low byte first. -/
theorem test_identity_bytes :
    let s := after .setupDataRead (after (.registerWrite 6 0) ready)
    s.host.dataOut = 0x01 ∧ (after .setupDataRead s).host.dataOut = 0x72 := by decide

/-- R173: STANDBY DELAY 50 is 5 s. -/
theorem test_standby_after_5s :
    let s := { ready with power := { ready.power with standbyTimer := 4998 } }
    (after .standby s).power.state = .standby ∧ standbyMs s = 5000 := by decide

/-- R96: a removal makes the reference INVALID and the position UNKNOWN. -/
theorem test_removal :
    let t := after .cartridgeRemoved ready
    t.place.cart = .empty ∧ t.motion.refValid = false ∧ t.place.position = none := by decide

/-- R22, R34: an ORDER write at the instant of a removal is judged after the removal's discard: with four orders waiting it
is accepted, and it stays. -/
theorem test_order_after_discard :
    let s := { running (order 0x12 [0] .travel .travel) 1000 with
                seq := { (running (order 0x12 [0] .travel .travel) 1000).seq with
                  queue := List.replicate 4 { tag := 0, code := 0x01, params := [] } }
                reports := reportsOf 4 }
    let t := after (.healthInputChange ⟨.cartin false false, .level, some (.write 1 0x02)⟩ false) s
    t.host.orderRejected = false ∧ t.seq.queue.map QueueEntry.code = [0x02] := by decide

/-- R152: a FAULT CLEAR at the instant at which a condition ends finds it ended. -/
theorem test_clear_after_sample :
    let s := { ready with
      health := { ready.health with present := driverBit, recorded := driverBit }
      motion := { ready.motion with state := .inhibited }
      inputs := { ready.inputs with drvflt := .sampled false }
      host := { ready.host with setupIndex := 0x44 } }
    (after (.healthInputChange ⟨.health .drvflt, .level, some (.write 7 1)⟩ true) s).health.present = 0 := by decide

set_option maxRecDepth 8000 in
/-- R53: a LOCKOUT POKE at the instant of a step whose rest ends the order makes no report beside the order's. -/
theorem test_lockout_and_rest :
    (after (.poke { frame 5 true 1 with beside := .step false false none }) arriving).reports.stored.map Report.cause =
      [.lockedOut] := by decide

/-- R49, R53: MARK written into an idle part at the instant of a fault's onset: its own report comes first. -/
theorem test_mark_before_onset :
    (after (.healthInputChange ⟨.health .tempw, .level, some (.write 1 0x01)⟩ true)
      { ready with reports := reportsOf 0 }).reports.stored.map Report.cause = [.success, .faultOnset] := by decide

/-- R53: a fault at the instant at which REWIND departs reaches the active order from its first stage; it fails no check. -/
theorem test_fault_after_checks :
    (after (.healthInputChange ⟨.health .drvflt, .level, some (.write 1 0x12)⟩ false)
      { staged [0] with reports := reportsOf 0 }).reports.stored.map (fun r => (r.cause, r.stage)) =
      [(.fault, .travel)] := by decide

set_option maxRecDepth 8000 in
/-- R53, R148, R150: a POKE that unmasks a fault at the instant of a step whose rest ends the order competes as FAULT. -/
theorem test_unmask_and_rest :
    (after (.poke { frame 4 true 0 with beside := .step false false none })
      { arriving with
        health := { ready.health with mask := driverBit }
        inputs := { ready.inputs with drvflt := .sampled false } }).reports.stored.map Report.cause = [.fault] := by decide

set_option maxRecDepth 8000 in
/-- R182: a POKE that clears SLEEP REQUEST in the step that ends the order is applied first: no entry is made. -/
theorem test_clear_request_and_rest :
    (after (.poke { frame 6 false 0 with beside := .step false false none })
      { arriving with
        link := { ready.link with sleepReq := true }
        power := { ready.power with state := .sleepPending } }).power.state = .active := by decide

/-- R40: a DEVICE RESET at the instant of a step that would end the order: no head departs, so a waiting CLEAR MAP leaves the
map, and the transport, at rest, keeps its reference. -/
theorem test_reset_overrides_step :
    let t := after (.capstanStep ⟨false, false, some (.write 1 0xEA)⟩ none)
      { arriving with
        seq := { arriving.seq with queue := [{ tag := 0, code := 0x02, params := [] }] }
        place := { ready.place with map := [{ part := 0, number := 5, origin := 2000, source := .host, stamp := 0 }] } }
    t.place.map.length = 1 ∧ t.motion.refValid = true ∧ t.reports.stored.map Report.cause = [.deviceReset] := by decide

/-- R92: the stop that a scan asks for on a stalled step comes after the stall's hold, which finds the transport moving. -/
theorem test_stall_before_stop :
    let a : Active := { order 0x13 [0, 5, 0, 0] .scan .scan with scan := { Scan.fresh with origin := 2000, target := 5 } }
    let s := running { a with gap := a.snap.gapLimit.toNat - 1 } 2035
    let t := after (stepRow false) { s with motion := { s.motion with rate := 4, request := some (.run .forward 4), stallCount := 31 } }
    t.motion.state = .inhibited ∧ t.motion.refValid = false := by decide

/-- R145, R147, R53: WRFLT/ debounced low on the sample of a removal, the gate on, is latched and recorded. -/
theorem test_removal_and_write_fault :
    let a := order 0x28 [1, 0] .write .scan
    let s : State := { running a 1100 with
      framer := { ready.framer with gate := true, writer := .recording { block5 with origin := 1000 } }
      inputs := { ready.inputs with
        cartin := { pin := false, last := false, level := true }, wrflt := { pin := false, last := false, level := true } }
      reports := reportsOf 0 }
    let t : State := match step s with | .next t => t | _ => s
    t.health.recorded = writeChannelBit ∧ t.reports.stored.map Report.cause = [.mediumRemoved] := by decide

/-- R46, R152: a removal from an idle part beside a FAULT CLEAR: its report shows FAULT RECORDED after the clear action. -/
theorem test_removal_report_after_clear :
    let s : State := { ready with
      reports := reportsOf 0
      health := { ready.health with recorded := hotBit }
      host := { ready.host with setupIndex := 0x44 } }
    let row (host : Option HostAccess) : Instr := .healthInputChange ⟨.cartin false false, .level, host⟩ false
    (after (row none) s).reports.stored.map Report.faultRecorded = [true] ∧
    (after (row (some (.write 7 1))) s).reports.stored.map Report.faultRecorded = [false] := by decide

set_option maxRecDepth 8000 in
/-- R46, R152: a MARK that ends in its departure beside a PEEK-CLEAR of FAULT RECORD: the flag is taken after the clear
action, and a report stored before keeps its own. -/
theorem test_mark_beside_clear :
    let s : State := { ready with
      reports := { reportsOf 0 with stored := [{ baseReport .halted ready with faultRecorded := true }] }
      health := { ready.health with recorded := hotBit } }
    (after (.mark) s).reports.stored.map Report.faultRecorded = [true, true] ∧
    (after (.peekClear { frame 3 false 0 with host := some (.write 1 0x01) }) s).reports.stored.map
      Report.faultRecorded = [true, false] := by decide

/-- R64, R66: the gate that stood as the step was made decides, whatever the step's own effects make of it. -/
theorem test_header_beside_gate :
    let s := running (order 0x28 [1, 3] .write .scan) 2035
    let on : State := { s with framer := { s.framer with gate := true, writer := .recording block5 } }
    (fieldEnds (beginRecording block5 (stepCapstan none s))).isSome = true ∧
    fieldEnds (dropGate (stepCapstan none on)) = none := by decide

/-- R150, R56: TENSION at a LOAD's zeroing step whose stall count reaches STALL WINDOW: one report, FAULT, and no FAULT ONSET
for either fault. -/
theorem test_tension_and_stall :
    let s : State := { running (order 0x10 [] .seek .reference) 3 with
      motion := { ready.motion with
        state := .cruising, rate := 48, dir := .reverse, tick := 3, request := some (.seek 48), seek := .seeking
        refValid := false, stallCount := 31 }
      place := { ready.place with cart := .loading, position := none }
      inputs := { ready.inputs with tensok := .sampled false }
      reports := reportsOf 0 }
    let t := after (stepRow true) s
    t.reports.stored.map Report.cause = [.fault] ∧ t.health.recorded = tensionBit ||| stallBit ∧
      t.motion.refValid = false := by decide

set_option maxRecDepth 8000 in
/-- R168, R39: an EMERGENCY STOP at START RATE beside a POKE that sets LOCKOUT is applied first: it holds the transport. -/
theorem test_emergency_before_lockout :
    let s := running (order 0x13 [0, 5, 0, 0] .scan .scan) 2500
    let t := after (.poke { frame 5 true 1 with host := some (.write 1 0xE2) })
      { s with
        motion := { s.motion with rate := 4, request := some (.run .forward 4) }
        reports := reportsOf 0 }
    t.motion.refValid = false ∧ t.place.position = none ∧ t.health.lockout = true ∧
      t.reports.stored.map Report.cause = [.emergencyStopped] := by decide

set_option maxRecDepth 8000 in
/-- R159: the bits of the edges past the 24th are LDI's. -/
theorem test_late_edges :
    (after (.ping { frame 0 true 0 with edges := 26, late := [true, true] }) ready).link.frame.shiftIn.extractLsb' 0 2 =
      3#2 := by decide

set_option maxRecDepth 8000 in
/-- R106: a header that ends on the step that reaches GAP LIMIT is met first. -/
theorem test_header_before_gap :
    let a : Active := { order 0x13 [0, 5, 0, 0] .scan .scan with scan := { Scan.fresh with origin := 2000, target := 5 } }
    let s := running { a with gap := a.snap.gapLimit.toNat - 1 } 2035
    ((after (.capstanStep ⟨false, false, none⟩ (some (recordedBits block5))) s).seq.active.bind Active.cause).map
        CauseAt.cause = some .success ∧
      ((after (stepRow false) s).seq.active.bind Active.cause).map CauseAt.cause = some .blank := by decide

/-! ### Premises met -/

theorem range_ok : SetupInRange Setup.defaults := by unfold SetupInRange; decide

/-- An idle part with some of its state replaced. -/
def idle (params : List Byte) (q : Place) (m : Motion) (k : Banks) : State :=
  { ready with seq := { ready.seq with staging := params }, place := q, motion := m, banks := k }

theorem ready_idle (params : List Byte) (q : Place) (m : Motion) (k : Banks) (hq : q.cart ≠ .loading)
    (hm : m.state = .stopped ∧ m.settling = false) (ha : q.position.isSome = true → m.refValid = true) :
    Ready (idle params q m k) :=
  ⟨rfl, rfl, ⟨rfl, rfl, rfl⟩, by show (1 : Nat) ≤ 4; decide, rfl, hm, ⟨rfl, rfl, rfl⟩, hq, ha, ⟨rfl, by
    have : conditions (idle params q m k) = 0#6 := by
      show bit false ++ bit (!true && false) ++ 0#1 ++ bit (!true) ++ bit (!true && q.cart == .loaded) ++ bit (!true) = 0#6
      cases q.cart <;> rfl
    rw [this]; show 0#6 &&& ~~~0#6 = 0#6; decide⟩, range_ok⟩

theorem ready_staged (params : List Byte) : Ready (staged params) :=
  ready_idle params ready.place ready.motion ready.banks (by decide) ⟨rfl, rfl⟩ (fun _ => rfl)

theorem sound_with (s : State) (h : s.seq.queue = [] ∧ s.seq.staging = []) (hr : s.reports = ready.reports)
    (hp : s.place = ready.place) (hm : s.motion.refValid = true) (hh : s.health = ready.health)
    (hf : s.framer = ready.framer) (hs : s.setup = Setup.defaults) (hi : s.motion.state ≠ .inhibited) : Sound s where
  orders := ⟨by rw [h.1]; decide, by rw [h.2]; decide⟩
  reports := by rw [hr]; unfold ReportsFit; decide
  map := by
    rw [hp]
    refine ⟨by decide, ?_, ?_, ?_⟩
    · exact List.Pairwise.nil
    · exact List.Pairwise.nil
    · intro d hd; cases hd
  anchored := fun _ => hm
  faults := by rw [hh]; unfold FaultsRecorded; decide
  gate := by rw [hf]; intro h; cases h
  setup := by rw [hs]; exact range_ok
  still := fun h => absurd h hi
  inhibit := ⟨fun h => absurd h hi, fun h => by rw [hh] at h; exact absurd h (by decide)⟩

theorem sound_ready : Sound ready := sound_with ready ⟨rfl, rfl⟩ rfl rfl rfl rfl rfl rfl (by decide)

theorem sound_running (a : Active) (tick : TickWord) : Sound (running a tick) :=
  sound_with (running a tick) ⟨rfl, rfl⟩ rfl rfl rfl rfl rfl rfl (by show MotionState.cruising ≠ .inhibited; decide)

/-- An order under way, with some framer, banks and position. -/
def streaming (a : Active) (tick : TickWord) (f : Framer) (k : Banks) : State :=
  { running a tick with framer := f, banks := k }

theorem underway (code : Byte) (params : List Byte) (p : Phase) (g : Stage) (tick : TickWord) (f : Framer) (k : Banks) :
    Underway (streaming (order code params p g) tick f k) (order code params p g) :=
  ⟨rfl, rfl, by show PowerState.active ≠ .sleepPending; decide, rfl, by show (4 : Nat) < 20; decide, rfl, fun _ => rfl, rfl, rfl⟩

theorem test_w_StepRunsFront : ({ ready with pending := [.mark, .halt] } : State).pending = .mark :: [.halt] := rfl

/-- Below the standby delay, at it, with none; and asleep. -/
theorem test_w_IdleMillisecond :
    (ready.pending = [] ∧ Ready ready ∧ Settled ready.inputs) ∧
    ready.setup.standbyDelay.toNat * 100 = 4999 + 1 ∧
    asleep.pending = [] ∧ asleep.power.state = .sleep ∧ asleep.inputs.slp.pin = asleep.inputs.slp.level :=
  ⟨⟨rfl, ready_staged [], by unfold Settled; decide⟩, by decide, rfl, rfl, rfl⟩

/-- The second sample of a change of an input, its level not yet changed. -/
def changing (v : Bool) : Sense := { pin := v, last := v, level := !v }

/-- No standby, with some CARTIN and DRVFLT/. -/
def awakeWith (c d : Sense) : State :=
  { ready with setup := { Setup.defaults with standbyDelay := 0 }, inputs := { ready.inputs with cartin := c, drvflt := d } }

theorem ready_awakeWith (c d : Sense) (hd : d.level = true) : Ready (awakeWith c d) :=
  ⟨rfl, rfl, ⟨rfl, rfl, rfl⟩, by show (1 : Nat) ≤ 4; decide, rfl, ⟨rfl, rfl⟩, ⟨rfl, rfl, rfl⟩,
    by show CartState.loaded ≠ .loading; decide, fun _ => rfl, ⟨rfl, by
      show (bit false ++ bit (!true && false) ++ 0#1 ++ bit (!d.level) ++ bit (!true && true) ++ bit (!true)) &&& ~~~0#6 = 0#6
      rw [hd]; decide⟩, by show SetupInRange { Setup.defaults with standbyDelay := 0 }; unfold SetupInRange; decide⟩

/-- The second sample of SLP/ low and, asleep, high; and of a removal and of a DRIVER condition in an idle part. -/
theorem test_w_IdleMillisecond_samples :
    (let s : State := { ready with inputs := { ready.inputs with slp := changing false } }
     s.inputs.slp.pin = s.inputs.slp.last ∧ s.inputs.slp.pin ≠ s.inputs.slp.level ∧ s.inputs.slp.pin = false ∧
       s.inputs.rstLow = false) ∧
    (let s : State := { asleep with inputs := { ready.inputs with slp := changing true } }
     s.inputs.slp.pin = s.inputs.slp.last ∧ s.inputs.slp.pin ≠ s.inputs.slp.level ∧ s.inputs.slp.pin = true ∧
       s.power.state = .sleep) ∧
    (let s := awakeWith (changing false) (.sampled true)
     Ready s ∧ s.setup.standbyDelay = 0 ∧ Settled { s.inputs with cartin := .sampled false } ∧
       s.inputs.cartin = { pin := false, last := false, level := true } ∧ ∃ u, exec .cartridgeRemoved s = .next u) ∧
    (let s := awakeWith (.sampled true) (changing false)
     Ready s ∧ Settled { s.inputs with drvflt := .sampled false } ∧
       s.inputs.drvflt = { pin := false, last := false, level := true } ∧
       ∃ u, exec (.healthInputChange ⟨.health .drvflt, .level, none⟩ false) s = .next u) :=
  ⟨by decide, by decide,
    ⟨ready_awakeWith _ _ rfl, rfl, by unfold Settled; decide, rfl, _, rfl⟩,
    ⟨ready_awakeWith _ _ rfl, by unfold Settled; decide, rfl, _, rfl⟩⟩

/-- A LOCATE whose controller waits before the move: a dwell or a settle wait of some milliseconds; and some power state. -/
def delayed (st : MotionState) (n : Nat) (p : Power) : State :=
  { running (order 0x13 [0, 5, 0, 0] .travel .travel) 1000 with
    motion := { ready.motion with
      request := some (.moveTo 4000 48), state := st, dwellTimer := n, settling := st == .stopped, settleTimer := n }
    power := p }

theorem waiting_delayed (st : MotionState) (n : Nat) (p : Power) (hp : p.state ≠ .sleep) :
    Waiting (delayed st n p) (order 0x13 [0, 5, 0, 0] .travel .travel) :=
  ⟨rfl, rfl, ⟨hp, rfl⟩, ⟨by decide, by decide⟩, ⟨by show Settled ready.inputs; unfold Settled; decide, rfl⟩,
    by show presentFor ready.health (conditions ready) = 0#6; decide⟩

theorem sound_delayed (st : MotionState) (n : Nat) (p : Power) (h : st ≠ .inhibited) : Sound (delayed st n p) :=
  sound_with (delayed st n p) ⟨rfl, rfl⟩ rfl rfl rfl rfl rfl rfl h

/-- SLEEP PENDING, its deadline timer at some millisecond. -/
def pendingAt (n : Nat) : Power := { ready.power with state := .sleepPending, deadlineTimer := n }

/-- A wait that goes on and one that is over, in a dwell and in a settle wait. -/
theorem test_w_IdleMillisecond_timers :
    (let s := delayed .dwell 2 ready.power
     Sound s ∧ Waiting s (order 0x13 [0, 5, 0, 0] .travel .travel) ∧ s.motion.state = .dwell ∧ 1 < s.motion.dwellTimer) ∧
    (let s := delayed .stopped 2 ready.power
     Sound s ∧ Waiting s (order 0x13 [0, 5, 0, 0] .travel .travel) ∧ s.motion.settling = true ∧ 1 < s.motion.settleTimer) ∧
    (let s := delayed .dwell 1 ready.power
     s.motion.dwellTimer ≤ 1 ∧ s.power.portWait = 0 ∧ (after .dwellExpiry s).seq.active.isSome = true) ∧
    (let s := delayed .stopped 1 ready.power
     s.motion.settleTimer ≤ 1 ∧ (after .settleDelayExpiry s).seq.active.isSome = true) :=
  ⟨⟨sound_delayed _ _ _ (by decide), waiting_delayed _ _ _ (by decide), rfl, by decide⟩,
    ⟨sound_delayed _ _ _ (by decide), waiting_delayed _ _ _ (by decide), rfl, by decide⟩, by decide, by decide⟩

/-- The sleep deadline one millisecond off, and reached. -/
theorem test_w_IdleMillisecond_deadline :
    (∀ n, Sound (delayed .dwell 2 (pendingAt n)) ∧
      Waiting (delayed .dwell 2 (pendingAt n)) (order 0x13 [0, 5, 0, 0] .travel .travel)) ∧
    (pendingAt 0).deadlineTimer + 1 < Setup.defaults.sleepDeadline.toNat * 100 ∧
    Setup.defaults.sleepDeadline.toNat * 100 ≤ (pendingAt (Setup.defaults.sleepDeadline.toNat * 100 - 1)).deadlineTimer + 1 :=
  ⟨fun _ => ⟨sound_delayed _ _ _ (by decide), waiting_delayed _ _ _ (by show PowerState.sleepPending ≠ .sleep; decide)⟩,
    by decide, by decide⟩

theorem test_w_SoundKept : Sound ready ∧ ∃ t, step ready = .next t := ⟨sound_ready, _, rfl⟩

theorem test_w_NoMotionUnderFault :
    Sound ready ∧ ∃ t, exec (.healthInputChange ⟨.health .drvflt, .level, none⟩ false) ready = .next t ∧ t.health.motionFault = true :=
  ⟨sound_ready, _, rfl, by decide⟩

theorem test_w_NoEventLeft :
    Sound ready ∧ HeldInReset ready ∧ ready.events = [] ∧ (∃ t, exec .mark ready = .next t) ∧ ready.pending = [] ∧
      ∃ t, step ready = .next t :=
  ⟨sound_ready, (fun h => by cases h), rfl, ⟨_, rfl⟩, rfl, _, rfl⟩

theorem test_w_RegistersOfTheirOwners :
    changesSetup .mark = false ∧ changesSupervision ready .mark = false ∧
      changesSupervision ready (.ping (frame 0 true 0)) = false ∧ (∃ t, exec .mark ready = .next t) ∧
      ready.pending = [] ∧ ∃ t, step ready = .next t :=
  ⟨rfl, rfl, rfl, ⟨_, rfl⟩, rfl, _, rfl⟩

/-- No bank; a byte before the last and the last byte; by DACK/ in DMA mode. -/
theorem test_w_DataReadTakesByte :
    AccessOpen .cs ready ∧ ready.banks.readSide = none ∧
    ({ ready with banks := { Banks.afterReset with a := halfRead } } : State).banks.readSide = some .a ∧
    halfRead.length ≤ halfRead.moved + 1 ∧
    ({ Banks.afterReset with b := { halfRead with moved := 0, state := .fullRead } }).readSide = some .b ∧
    AccessOpen .dack (dma ready) := by
  refine ⟨⟨rfl, fun h => by cases h⟩, ?_⟩
  refine ⟨rfl, rfl, by decide, rfl, rfl, fun _ => rfl⟩

/-- A WRITE BLOCKS of 1 active: the fill target. -/
def filling (k : Banks) : State := streaming (order 0x28 [1, 0] .approach .travel) 1000 ready.framer k

/-- A FILLING bank of tag 0 with some bytes of 256. -/
def partBank (n : Nat) : Bank :=
  { Bank.cleared with state := .filling, data := List.replicate n 0, moved := n, length := 256 }

/-- No target; a target and no bank to claim; the FILLING bank at its last byte; an EMPTY bank to claim. -/
theorem test_w_DataWriteStoresByte :
    (AccessOpen .cs ready ∧ fillTarget ready = none) ∧
    (let s := filling { Banks.afterReset with a := { halfRead with state := .onTape, owner := 3 }
                                              b := { halfRead with state := .onTape, owner := 3 } }
     AccessOpen .cs s ∧ (fillTarget s).isSome = true ∧ s.banks.fillSide = none ∧ s.banks.toClaim = none) ∧
    (let s := filling { Banks.afterReset with a := partBank 255 }
     AccessOpen .cs s ∧ (fillTarget s).isSome = true ∧ s.banks.fillSide = some .a) ∧
    (let s := filling Banks.afterReset
     AccessOpen .cs s ∧ (fillTarget s).isSome = true ∧ s.banks.fillSide = none ∧ s.banks.toClaim = some .a) :=
  ⟨⟨⟨rfl, fun h => by cases h⟩, rfl⟩, ⟨⟨rfl, fun h => by cases h⟩, rfl, rfl, rfl⟩,
    ⟨⟨rfl, fun h => by cases h⟩, rfl, rfl⟩, ⟨⟨rfl, fun h => by cases h⟩, rfl, rfl, rfl⟩⟩

theorem test_w_CsDackConflictIgnored : portActive (dma ready) = true ∧ dmaMode (dma ready) = true := by decide

theorem test_w_InactivePort :
    portActive asleep = false ∧ readsPort (.dataRead .cs) = true ∧ writesPort (.param 1) = true ∧
    dmaMode ready = false ∧ portActive held = false := by decide

/-- Seven bytes staged, and eight. -/
theorem test_w_PlainRegisters :
    portActive ready = true ∧ (staged [1, 2, 3, 4, 5, 6, 7]).seq.staging.length < 8 ∧
    8 ≤ (staged [1, 2, 3, 4, 5, 6, 7, 8]).seq.staging.length := by decide

theorem test_w_ReportAccess :
    portActive ready = true ∧ (reportsOf 0).stored = [] ∧ ready.reports.stored = .powerOnClean :: [] := by decide

/-- REPORT CONTROL values beside the two that act; every order code. -/
theorem test_w_RegisterWindow :
    portActive ready = true ∧ dmaMode ready = false ∧ (0 : Byte) ≠ 1 ∧ (0 : Byte) ≠ 2 ∧ (3 : Byte) ≠ 1 ∧ (3 : Byte) ≠ 2 ∧
    orderCode .load = some 0x10 ∧ orderCode .halt = some 0xE1 ∧ orderCode (.unknownCode 0x7F) = some 0x7F := by decide

/-- An unassigned index, a single-byte item, the two bytes of APPROACH MARGIN. -/
theorem test_w_SetupDataRead :
    portActive ready = true ∧ itemAt 0xFF = none ∧ itemAt 0x02 = some ⟨0x02, 1, .clockRate⟩ ∧
    itemAt 0x10 = some ⟨0x10, 2, .approachMargin⟩ ∧ itemAt 0x11 = some ⟨0x10, 2, .approachMargin⟩ := by decide

/-- Unassigned, read-only, a lower byte, and the highest byte within and beyond the range. -/
theorem test_w_SetupDataWrite :
    portActive ready = true ∧ itemAt 0x06 = none ∧ (itemAt 0x00).map (fun r => r.item.cls) = some .readOnly ∧
    itemAt 0x10 = some ⟨0x10, 2, .approachMargin⟩ ∧ (0x10 : Byte).toNat + 1 < 0x10 + 2 ∧
    (Item.cls .approachMargin = .writable ∧ (0x11 : Byte).toNat + 1 = 0x10 + 2) ∧
    (Item.accepts .approachMargin (assembled { ready with setup := { Setup.defaults with approachMargin := 16 } }
      ⟨0x10, 2, .approachMargin⟩ 0) = true) ∧
    Item.accepts .dataPath (assembled ready ⟨0x03, 1, .dataPath⟩ 2) = false := by decide

/-- STANDBY DELAY set to 0, passed already and not yet; SLEEP DEADLINE passed already and not yet. -/
theorem test_w_SetupDataWrite_timers :
    (itemAt 0x1E = some ⟨0x1E, 1, .standbyDelay⟩ ∧
      Item.accepts .standbyDelay (assembled ready ⟨0x1E, 1, .standbyDelay⟩ 0) = true) ∧
    (ready.power.state = .active ∧ ready.motion.state = .stopped ∧ ready.seq.active = none ∧ ready.seq.queue = [] ∧
      (1 : BitVec 8).toNat * 100 ≤ 100 ∧ ¬ (1 : BitVec 8).toNat * 100 ≤ 99) ∧
    itemAt 0x1F = some ⟨0x1F, 1, .sleepDeadline⟩ ∧
    Item.accepts .sleepDeadline (assembled ready ⟨0x1F, 1, .sleepDeadline⟩ 1) = true ∧
    ({ ready.power with state := .sleepPending, deadlineTimer := 100 } : Power).state = .sleepPending ∧
    ready.power.state ≠ .sleepPending := by decide

theorem test_w_SetupReadsBack :
    (⟨0x17, 3, .maxTape⟩ : ItemRow) ∈ itemRows ∧ Item.cls .maxTape = .writable ∧
    Item.accepts .maxTape 8000000 = true ∧ 8000000 < 256 ^ 3 ∧
    (⟨0x60, 1, .mapSelect⟩ : ItemRow) ∈ itemRows ∧ Item.cls .mapSelect = .writable := by decide

theorem test_w_FaultClearCommand :
    Sound ready ∧ portActive ready = true ∧ ready.health.supervisorOnly = false ∧ (0 : Byte) ≠ 1 ∧
    ({ ready.health with control := 4 } : Health).supervisorOnly = true :=
  ⟨sound_ready, rfl, rfl, by decide, rfl⟩

/-- Refused with an order active; accepted at the start of partition 0 (tick 1000, 3E8h). -/
theorem test_w_MapEntryCommit :
    Sound ready ∧ portActive ready = true ∧ (itemAt 0x69).isSome = true ∧
    (running (order 0x13 [0, 5, 0, 0] .scan .scan) 1000).seq.active.isSome = true ∧
    ready.seq.active = none ∧ tableValid ready.setup = true ∧
    (ready.setup.parts.get (entryPart 0x3E800000000)).enabled = true ∧
    inRegion ready.setup (entryPart 0x3E800000000) (entryTick 0x3E800000000) = true :=
  ⟨sound_ready, rfl, rfl, rfl, rfl, by decide, by decide, by decide⟩

theorem test_w_ReportBytesFaithful : Report.powerOnClean.bytes = Report.powerOnClean.bytes := rfl

theorem test_w_PushReport :
    (reportsOf 5).stored.length < 6 ∧ (reportsOf 6).stored = (reportsOf 5).stored ++ [.powerOnClean] ∧
    6 ≤ (reportsOf 6).stored.length := by decide

/-- Some waiting orders. -/
def waitingOrders (n : Nat) : List QueueEntry := List.replicate n { tag := 0, code := 0x01, params := [] }

theorem test_w_OrderAccepted :
    queuedCode .mark = some 0x01 ∧ portActive ready = true ∧ (waitingOrders 3).length < 4 ∧
    4 ≤ (waitingOrders 4).length ∧ Steady (running (order 0x13 [0, 5, 0, 0] .scan .scan) 1000) ∧
    (running (order 0x13 [0, 5, 0, 0] .scan .scan) 1000).seq.active.isSome = true :=
  ⟨rfl, rfl, by decide, by decide, ⟨rfl, by decide, by decide, by decide⟩, rfl⟩

/-- LOAD of a loaded cartridge; a WRITE FENCES without a parameter byte. -/
theorem test_w_FailedStartCheckEnds :
    queuedCode .load = some 0x10 ∧ Ready ready ∧ startCheck ready ready.setup (newEntry 0x10 ready) = some .illegalState ∧
    queuedCode .writeFences = some 0x29 ∧ startCheck ready ready.setup (newEntry 0x29 ready) = some .paramError ∧
    ready.banks.anyRead = false :=
  ⟨rfl, ready_staged [], by decide, rfl, by decide, rfl⟩

/-- The position before an END. -/
def atEnd : Place := { ready.place with position := some { at5 with eod := true } }

theorem test_w_EndsAtDeparture :
    (Ready ready ∧ ready.seq.staging = []) ∧
    (let s := idle [] atEnd ready.motion ready.banks
     Ready s ∧ startCheck s s.setup (newEntry 0x1A s) = none ∧ eodCause .seekEnd s.seq.staging = some .success) ∧
    (let s := idle [1] atEnd ready.motion ready.banks
     Ready s ∧ startCheck s s.setup (newEntry 0x20 s) = none ∧ eodCause .readBlocks s.seq.staging = some .endOfData) :=
  ⟨⟨ready_staged [], rfl⟩,
    ⟨ready_idle _ _ _ _ (by decide) ⟨rfl, rfl⟩ (fun _ => rfl), by decide, by decide⟩,
    ⟨ready_idle _ _ _ _ (by decide) ⟨rfl, rfl⟩ (fun _ => rfl), by decide, by decide⟩⟩

/-- The place of a cartridge just inserted. -/
def inserted : Place := { ready.place with cart := .inserted, position := none }

/-- No position, the reference as given. -/
def unknown : Place := { ready.place with position := none }

/-- LOAD; a LOCATE under an INVALID reference. -/
theorem test_w_SeekStarts :
    (let s := idle [] inserted Motion.afterPowerOn ready.banks
     Ready s ∧ startCheck s s.setup (newEntry 0x10 s) = none) ∧
    (let s := idle [0, 5, 0, 0] unknown Motion.afterPowerOn ready.banks
     Ready s ∧ startCheck s s.setup (newEntry 0x13 s) = none ∧ s.motion.refValid = false) :=
  ⟨⟨ready_idle _ _ _ _ (by decide) ⟨rfl, rfl⟩ (fun h => by cases h), by decide⟩,
    ⟨ready_idle _ _ _ _ (by decide) ⟨rfl, rfl⟩ (fun h => by cases h), by decide, rfl⟩⟩

/-- REWIND to 400; a LOCATE without an anchor; MOVE RAW by 2, the least distance of `ClearWay`. -/
theorem test_w_TravelStarts :
    (let s := staged [0]
     Ready s ∧ startCheck s s.setup (newEntry 0x12 s) = none ∧ s.motion.refValid = true ∧ ClearWay s 400) ∧
    (let s := idle [0, 5, 0, 0] unknown ready.motion ready.banks
     Ready s ∧ startCheck s s.setup (newEntry 0x13 s) = none ∧ s.place.position = none ∧ s.place.map = [] ∧
       ClearWay s 400) ∧
    (let s := staged [2, 0, 0]
     Ready s ∧ startCheck s s.setup (newEntry 0x14 s) = none ∧ s.motion.pos + paramTicks s.seq.staging = 3002 ∧
       ClearWay s 3002) :=
  ⟨⟨ready_staged _, by decide, rfl, by unfold ClearWay; decide⟩,
    ⟨ready_idle _ _ _ _ (by decide) ⟨rfl, rfl⟩ (fun h => by cases h), by decide, rfl, rfl, by unfold ClearWay; decide⟩,
    ⟨ready_staged _, by decide, by decide, by unfold ClearWay; decide⟩⟩

/-- READ BLOCKS of 1; WRITE FENCES of 1; SPACE BLOCKS by -1 from before its slot. -/
theorem test_w_ApproachStarts :
    (let s := staged [1]
     Ready s ∧ startCheck s s.setup (newEntry 0x20 s) = none ∧ approaches .readBlocks s.seq.staging at5 ∧
       ClearWay s (at5.slot - s.setup.approachMargin.toNat)) ∧
    (let s := staged [1]
     startCheck s s.setup (newEntry 0x29 s) = none ∧ s.banks.anyRead = false ∧
       approachSlot .writeFences (newActive s (newEntry 0x29 s)) at5 = 2000) ∧
    (let s := idle [0xFF, 0xFF] ready.place { ready.motion with tick := 1400 } ready.banks
     Ready s ∧ startCheck s s.setup (newEntry 0x18 s) = none ∧ paramSpace s.seq.staging < 0 ∧ s.motion.pos < at5.slot ∧
       ClearWay s at5.slot) :=
  ⟨⟨ready_staged _, by decide, by unfold approaches; decide, by unfold ClearWay; decide⟩,
    ⟨by decide, rfl, by decide⟩,
    ⟨ready_idle _ _ _ _ (by decide) ⟨rfl, rfl⟩ (fun _ => rfl), by decide, by decide, by decide, by unfold ClearWay; decide⟩⟩

/-- One order waiting: due with four reports, not due with five; a check that fails and one that passes. -/
def oneWaiting (code : Byte) (n : Nat) : State :=
  { ready with seq := { ready.seq with queue := [{ tag := 0, code := code, params := [] }] }, reports := reportsOf n }

theorem test_w_OrderDeparture :
    (oneWaiting 0x01 4).seq.active = none ∧ (oneWaiting 0x01 4).reports.stored.length ≤ 4 ∧
    ¬ (oneWaiting 0x01 5).reports.stored.length ≤ 4 ∧
    startCheck (oneWaiting 0x01 4) ready.setup { tag := 0, code := 0x01, params := [] } = none ∧
    startCheck (oneWaiting 0x10 4) ready.setup { tag := 0, code := 0x10, params := [] } = some .illegalState ∧
    orderKind 0x01 = some .mark := by decide

theorem test_w_IdleStop : portActive ready = true ∧ ready.seq.active = none := by decide

/-- A coarse move of a REWIND, and the same with a HALT pending; the scan of a READ BLOCKS, without a capture and with
one; and a block being recorded. -/
theorem test_w_HaltActive :
    (let a := order 0x12 [0] .travel .travel
     Underway (streaming a 1000 ready.framer ready.banks) a ∧ a.isStream = false) ∧
    (let s := { running (order 0x12 [0] .travel .travel) 1000 with
                  seq := { (running (order 0x12 [0] .travel .travel) 1000).seq with haltPending := true } }
     portActive s = true ∧ stopWanted s (order 0x12 [0] .travel .travel) = true) ∧
    (let a := order 0x20 [2] .scan .scan
     let s := streaming a 2036 ready.framer ready.banks
     Underway s a ∧ a.isRead = true ∧ s.framer.capture = none ∧ portActive s = true) ∧
    (let a := order 0x20 [2] .scan .scan
     let s := streaming a 2036 { ready.framer with capture := some { bank := some .a, origin := 2000, lengthCode := 0 } }
       ready.banks
     Steady s ∧ stopWanted s a = false ∧ s.framer.capture.isSome = true) ∧
    (let a := order 0x29 [1] .write .scan
     let s := streaming a 2036 { ready.framer with gate := true, writer := .recording block5 } ready.banks
     Steady s ∧ stopWanted s a = false) :=
  ⟨⟨underway _ _ _ _ _ _ _, by decide⟩, by decide, ⟨underway _ _ _ _ _ _ _, by decide, rfl, rfl⟩,
    ⟨⟨rfl, by decide, by decide, by decide⟩, by decide, rfl⟩, ⟨⟨rfl, by decide, by decide, by decide⟩, by decide⟩⟩

/-- A READ BLOCKS at rest in its reposition cycle, its banks not EMPTY. -/
theorem test_w_HaltActive_reposition :
    let a := order 0x20 [2] .repWait .scan
    let s := { running a 1400 with motion := { ready.motion with tick := 1400 } }
    Sound s ∧ portActive s = true ∧ s.seq.active = some a ∧ stopWanted s a = false ∧ a.isRead = true ∧
      a.cause = none ∧ s.events = [] ∧ s.power.state ≠ .sleepPending ∧ s.place.cart ≠ .loading ∧
      s.framer.capture = none ∧ s.motion.state = .stopped ∧
      presentFor s.health (conditions s) = s.health.present :=
  ⟨sound_with _ ⟨rfl, rfl⟩ rfl rfl rfl rfl rfl rfl (by decide), rfl, rfl, by decide, by decide, rfl, rfl, by decide,
    by decide, rfl, rfl, by decide⟩

/-- A coarse move; a wait for a bank at rest; and the coarse move with a HALT pending, its cause raised. -/
theorem test_w_EmergencyStopActive :
    (let a := order 0x12 [0] .travel .travel
     let s := running a 1000
     Sound s ∧ portActive s = true ∧ s.seq.active = some a ∧ s.events = [] ∧ s.power.state ≠ .sleepPending ∧
       presentFor s.health (conditions s) = s.health.present ∧ s.motion.moving = true) ∧
    (let a := order 0x28 [1, 0] .waitBank .travel
     let s := { running a 1400 with motion := { ready.motion with tick := 1400 } }
     Sound s ∧ portActive s = true ∧ s.seq.active = some a ∧ presentFor s.health (conditions s) = s.health.present ∧
       s.motion.moving = false) ∧
    (let a := { order 0x12 [0] .ending .settle with cause := some { cause := .halted, stage := .travel } }
     let s := { running a 1000 with seq := { (running a 1000).seq with haltPending := true } }
     Sound s ∧ portActive s = true ∧ s.seq.active = some a ∧ presentFor s.health (conditions s) = s.health.present) :=
  ⟨⟨sound_running _ _, rfl, rfl, rfl, by decide, by decide, rfl⟩,
    ⟨sound_with _ ⟨rfl, rfl⟩ rfl rfl rfl rfl rfl rfl (by decide), rfl, rfl, by decide, rfl⟩,
    ⟨sound_with _ ⟨rfl, rfl⟩ rfl rfl rfl rfl rfl rfl (by decide), rfl, rfl, by decide⟩⟩

theorem test_w_CausePrecedence :
    let a := order 0x20 [1] .scan .scan
    (running a 1000).seq.active = some a ∧ a.cause = none ∧ [Cause.blank, .halted] ≠ [] := by decide

/-- A move away from the edge, and a zeroing step; a host access of the instant; the twelfth step forward and the
thirteenth in reverse, each with the one before. -/
theorem test_w_CapstanStep :
    ready.motion.moving = false ∧ (running (order 0x12 [0] .travel .travel) 1000).motion.moving = true ∧
    (let b : Beside := .step false false none
     let s := running (order 0x12 [0] .travel .travel) 1000
     reacts b s = true ∧ instantTurn b (.write 3 1) s = .before ∧ instantTurn b (.read 4) s = .between ∧
       instantTurn b (.write 1 0x12) s = .after ∧ instantTurn b (.write 1 0x12) ready = .after ∧
       plainAccess (.write 1 0x12) = true) ∧
    (fieldSteps .forward = 12 ∧ fieldSteps .reverse = 13) ∧
    (let m : Motion := { ready.motion with state := .cruising, rate := 48, dir := .reverse, seek := .seeking }
     m.moving = true ∧ m.seek = .seeking ∧ m.toRest = false) :=
  ⟨by decide, by decide, by decide, by decide, by decide⟩

/-- R64: the place of a field after the eleventh and twelfth step forward, and the twelfth and thirteenth in reverse: a
field from 2036 down to 2024 is entered by the step to 2035 and left by the step to 2023. -/
theorem test_field_steps :
    let m : Motion := { ready.motion with state := .cruising, rate := 20, tick := 2036, run := 11 }
    let r : Motion := { m with dir := .reverse, tick := 2024 }
    fieldPassed none m { m with tick := 2036, run := 11 } = none ∧
    (fieldPassed none m { m with run := 12 }).map FieldPlace.origin = some 2000 ∧
    fieldPassed none r { r with tick := 2023, run := 12 } = none ∧
    (fieldPassed none r { r with tick := 2023, run := 13 }).map FieldPlace.origin = some 2000 := by decide

/-- Braking from 5 in the last room before either limit. -/
theorem test_w_BrakingDistance :
    let e : CtlEnv := { setup := .defaults, bots := false, eots := false }
    let m : Motion := { ready.motion with state := .decelerating, decel := .unplanned, rate := 5, tick := 7499995 }
    let r : Motion := { m with dir := .reverse, tick := 4 }
    SetupInRange e.setup ∧ m.request = none ∧ m.waiting = none ∧ m.ramp = 0 ∧ m.overshoot = 0 ∧ m.seek = .none ∧
      e.setup.startRate.toNat < m.rate ∧ (m.rate - e.setup.startRate.toNat) * e.setup.decel.toNat = 4 ∧
      m.pos + 4 < e.setup.maxTape.toNat ∧ 0 ≤ r.pos - 4 :=
  ⟨range_ok, by decide⟩

/-- A move of one tick forward, and one of 3000 back to 0. -/
theorem test_w_PlannedMoveArrives :
    let e : CtlEnv := { setup := .defaults, bots := false, eots := false }
    let m : Motion := { ready.motion with request := some (.moveTo 3001 48) }
    let r : Motion := { ready.motion with request := some (.moveTo 0 48), dir := .reverse }
    SetupInRange e.setup ∧ m.state = .stopped ∧ m.waiting = none ∧ m.seek = .none ∧ m.overshoot = 0 ∧
      e.setup.startRate.toNat ≤ 48 ∧ (3001 : Int) ≤ e.setup.maxTape.toNat ∧ (3001 : Int) ≠ m.pos ∧ m.pos < 3001 ∧
      m.dir = .forward ∧ ¬ r.pos < 0 ∧ r.dir = .reverse :=
  ⟨range_ok, by decide⟩

theorem test_w_WaitExpiry :
    (let s := { ready with motion := { ready.motion with state := .dwell, request := some (.moveTo 4000 48) } }
     s.motion.state = .dwell ∧ startRefused (ctlEnv s) s.motion = none ∧ s.motion.seek = .none) ∧
    (let s := { ready with motion := { ready.motion with state := .dwell, request := some (.moveTo 4000 48) }
                           inputs := { ready.inputs with eots := true } }
     s.motion.state = .dwell ∧ startRefused (ctlEnv s) s.motion = some .eot) ∧
    (let m := { ready.motion with settling := true, request := some (.moveTo 4000 48) }
     m.settling = true ∧ m.state = .stopped) ∧ ready.motion.state ≠ .dwell ∧ ready.motion.settling = false := by decide

theorem test_w_TachAndStall :
    let a := order 0x12 [0] .travel .travel
    let s := running a 1000
    Sound s ∧ Underway s a ∧ s.health.mask &&& stallBit = 0#6 ∧ s.motion.moving = true ∧ Steady s ∧
      (0x08#6 &&& stallBit ≠ 0#6) ∧ ready.motion.moving = false :=
  ⟨sound_running _ _, underway _ _ _ _ _ _ _, by decide, by decide, ⟨rfl, by decide, by decide, by decide⟩, by decide,
    by decide⟩

/-- A zeroing seek under way. -/
def seeking : State :=
  let a := order 0x10 [] .seek .reference
  { running a 1000 with motion := { (running a 1000).motion with
      dir := .reverse, seek := .seeking, request := some (.seek 48) } }

theorem test_w_SeekExhausted :
    Underway seeking (order 0x10 [] .seek .reference) ∧ seekRunning seeking.motion = true ∧
    seekRunning ready.motion = false :=
  ⟨⟨rfl, rfl, by show PowerState.active ≠ .sleepPending; decide, rfl, by show (4 : Nat) < 20; decide, rfl, fun _ => rfl, rfl, rfl⟩, by decide, by decide⟩

theorem test_w_HeaderRoundTrip :
    block5.kind = .data ∧ ({ block5 with kind := .fence, lengthCode := 0 } : Recording).lengthCode = 0 := by decide

set_option maxRecDepth 8000 in
theorem test_w_HeaderEvent :
    let a := order 0x20 [1] .approach .travel
    let s := streaming a 2036 (fieldAt 2036) ready.banks
    Steady s ∧ fieldEnds s = some { dir := .forward, tick := 2036, bits := none } ∧ s.framer.capture = none ∧ s.seq.active = some a ∧
      goodHeader (recovered .forward (recordedBits block5 ^^^ 1#64)) 2000 = none ∧
      (goodHeader (recovered .forward (recordedBits block5)) 2000).map Header.origin = some 2000 ∧
      ready.framer.field = none ∧ asleep.power.state = .sleep :=
  ⟨⟨rfl, by decide, by decide, by decide⟩, rfl, rfl, rfl, by decide, by decide, rfl, rfl⟩

/-- The header of `block5` at its origin, and the place where its field ends. -/
def header5 : Header := { kind := .data, part := 0, lengthCode := 3, copy := 0, number := 5, origin := 2000 }
def place5 : FieldPlace := { dir := .forward, tick := 2036, bits := none }

set_option maxRecDepth 8000 in
theorem header5_good : goodHeader (recovered place5.dir (recordedBits block5)) place5.origin = some header5 := by decide

theorem test_w_LocateFinds :
    let a : Active := { order 0x13 [0, 5, 0, 0] .scan .scan with scan := { Scan.fresh with origin := 2000, target := 5 } }
    let s := streaming a 2036 (fieldAt 2036) ready.banks
    Underway s a ∧ s.framer.capture = none ∧ a.kind = some .locate ∧ fieldEnds s = some place5 ∧
      goodHeader (recovered place5.dir (recordedBits block5)) place5.origin = some header5 ∧
      a.scan.origin ≤ header5.origin ∧ header5.origin < partEnd a.snap a.part ∧ header5.part = a.part ∧
      header5.kind ≠ .endMark ∧ (header5.number.toNat : Int) = a.scan.target :=
  ⟨⟨rfl, rfl, by show PowerState.active ≠ .sleepPending; decide, rfl, by show (4 : Nat) < 20; decide, rfl, fun _ => rfl,
      rfl, rfl⟩, rfl, by decide, rfl, header5_good, by decide, by decide, by decide, by decide, by decide⟩

theorem test_w_CaptureArmed :
    let a := order 0x20 [2] .scan .scan
    let s := streaming a 2036 (fieldAt 2036) ready.banks
    Underway s a ∧ s.framer.capture = none ∧ a.kind = some .readBlocks ∧ fieldEnds s = some place5 ∧
      goodHeader (recovered place5.dir (recordedBits block5)) place5.origin = some header5 ∧
      s.place.position = some at5 ∧ a.stream.copySeen = false ∧ at5.slot ≤ header5.origin ∧
      inRegion a.snap a.part header5.origin = true ∧ header5.number = at5.next ∧ armable s a = true ∧
      s.banks.toClaim = some .a :=
  ⟨underway _ _ _ _ _ _ _, rfl, by decide, rfl, header5_good, rfl, rfl, by decide, by decide, rfl, by decide, rfl⟩

/-- A capture of 256 bytes armed in bank A. -/
def capturing : State :=
  streaming (order 0x20 [2] .scan .scan) 2072
    { ready.framer with capture := some { bank := some .a, origin := 2000, lengthCode := 0 } } ready.banks

set_option maxRecDepth 100000 in
theorem test_w_CaptureResult :
    let a := order 0x20 [2] .scan .scan
    Underway capturing a ∧ a.stream.done + 1 < paramCount a.entry.params ∧
      capturing.motion.pos < partEnd a.snap a.part ∧ a.gap < a.snap.gapLimit.toNat ∧
      captureGood { bank := some .a, origin := 2000, lengthCode := 0 } (List.replicate 256 0)
        (dataCheck (List.replicate 256 0)) capturing = true ∧
      captureGood { bank := some .a, origin := 2000, lengthCode := 0 } [] 0 capturing = false ∧
      ready.framer.capture = none :=
  ⟨underway _ _ _ _ _ _ _, by decide, by decide, by decide, by simp [captureGood]; decide, by decide, rfl⟩

/-- An order whose block awaits its verdict, some blocks done and some rewrites made. -/
def writing (code : Byte) (params : List Byte) (done rewrites : Nat) : Active :=
  { order code params .write .scan with stream := { Stream.fresh with recorded := true, done := done, rewrites := rewrites } }

/-- A FENCE of number 5, and a DATA block of number 5 in bank A, with bank B FULL WRITE for its order. -/
def fence5 : Recording := { block5 with kind := .fence, lengthCode := 0 }
def data5 : Recording := { block5 with lengthCode := 0, bank := some .a }
def twoBanks : Banks :=
  { Banks.afterReset with a := { Bank.cleared with state := .onTape, length := 256 }
                          b := { Bank.cleared with state := .fullWrite, length := 256 } }
def judged (a : Active) (r : Recording) (k : Banks) : State :=
  streaming a 2060 { ready.framer with gate := true, writer := .verdict r } k

theorem judged_underway (code : Byte) (params : List Byte) (done rewrites : Nat) (r : Recording) (k : Banks) :
    Underway (judged (writing code params done rewrites) r k) (writing code params done rewrites) :=
  ⟨rfl, rfl, by show PowerState.active ≠ .sleepPending; decide, rfl, by show (4 : Nat) < 20; decide, rfl, fun _ => rfl,
    rfl, rfl⟩

/-- A fence short of the count; a DATA block short of it; the last block; a rewrite; and REWRITE LIMIT reached. -/
theorem test_w_Verdict :
    (let a := writing 0x29 [2] 0 0
     Underway (judged a fence5 ready.banks) a ∧ (judged a fence5 ready.banks).health.writeFault = false ∧
       a.kind = some .writeFences ∧ fence5.bank = none ∧ a.stream.done + 1 < paramCount a.entry.params ∧
       fits a.snap { fence5 with origin := fence5.blockEnd, number := 6 } = true ∧
       a.stream.rewrites < a.snap.rewriteLimit.toNat ∧
       fits a.snap { fence5 with origin := fence5.blockEnd, copy := fence5.copy + 1 } = true) ∧
    (let a := writing 0x28 [2, 0] 0 0
     Underway (judged a data5 twoBanks) a ∧ (twoBanks.set .a Bank.cleared).fullFor a.entry.tag = some .b ∧
       a.kind = some .writeBlocks ∧ a.stream.done + 1 < paramCount a.entry.params ∧
       fits a.snap { data5 with origin := data5.blockEnd, number := 6, bank := some .b } = true) ∧
    (let a := writing 0x28 [2, 0] 1 0
     Underway (judged a data5 twoBanks) a ∧ (judged a data5 twoBanks).seq.queue = [] ∧
       paramCount a.entry.params ≤ a.stream.done + 1) ∧
    (let a := writing 0x28 [2, 0] 0 3
     Underway (judged a data5 twoBanks) a ∧ a.snap.rewriteLimit.toNat ≤ a.stream.rewrites) ∧
    ready.framer.writer = .idle :=
  ⟨⟨judged_underway _ _ _ _ _ _, by decide, by decide, rfl, by decide, by decide, by decide, by decide⟩,
    ⟨judged_underway _ _ _ _ _ _, by decide, by decide, by decide, by decide⟩,
    ⟨judged_underway _ _ _ _ _ _, by decide, by decide⟩, ⟨judged_underway _ _ _ _ _ _, by decide⟩, rfl⟩

theorem test_w_EndMarkComplete :
    let a := order 0x29 [1] .write .settle
    let r : Recording := { block5 with kind := .endMark, lengthCode := 0 }
    let s := streaming a 2040 { ready.framer with gate := true, writer := .recording r } ready.banks
    s.seq.active = some a ∧ s.events = [] ∧ s.power.state ≠ .sleepPending ∧ s.motion.moving = true ∧
      a.snap.startRate.toNat < s.motion.rate ∧ s.motion.toRest = false ∧ s.motion.refValid = true ∧
      stopWanted s a = false ∧ s.framer.writer = .recording r ∧ r.kind = .endMark ∧ a.stream.endUse = .finish := by
  decide

/-- At rest after a move in reverse. -/
def resting (a : Active) (k : Banks) : State :=
  { streaming a 1400 ready.framer k with motion := { ready.motion with tick := 1400, lastDir := some .reverse } }

/-- A cycle of a READ BLOCKS that may go on; a WRITE BLOCKS with its FULL WRITE bank; neither without them. -/
theorem test_w_RunsForward :
    (let a := order 0x20 [1] .repWait .scan
     let s := resting a ready.banks
     resumeDue s = true ∧ a.isRead = true ∧ a.isWrite = false ∧ s.events = [] ∧ s.power.state = .active ∧
       s.motion.state = .stopped ∧ s.motion.settling = false ∧ a.snap.reversalDwell ≠ 0) ∧
    (let a := order 0x28 [1, 0] .waitBank .travel
     let s := resting a { Banks.afterReset with a := { Bank.cleared with state := .fullWrite, length := 256 } }
     writeWaitDue s = true ∧ a.isWrite = true) ∧
    Anchored (resting (order 0x20 [1] .repWait .scan) ready.banks) ∧
    resumeDue ready = false ∧ writeWaitDue ready = false :=
  ⟨by decide, by decide, fun _ => rfl, by decide, by decide⟩

/-- A READ BLOCKS in its stream, a LOCATE without a landmark, and an order outside a scan. -/
theorem test_w_GapLimitReached :
    (let a := order 0x20 [1] .scan .scan
     Underway (streaming a 9000 ready.framer ready.banks) a ∧ a.isRead = true) ∧
    (let a := order 0x13 [0, 9, 0, 0] .scan .scan
     Underway (streaming a 9000 ready.framer ready.banks) a ∧ a.isRead = false) ∧
    (order 0x12 [0] .travel .travel).phase ≠ .scan ∧ (order 0x12 [0] .travel .travel).phase ≠ .scanBack :=
  ⟨⟨underway _ _ _ _ _ _ _, by decide⟩, ⟨underway _ _ _ _ _ _ _, by decide⟩, by decide, by decide⟩

theorem test_w_CartridgeChange :
    (let b : Beside := .input (.cartin false false) .level false
     let s := running (order 0x12 [0] .travel .travel) 1000
     instantTurn b (.write 1 0x10) ready = .before ∧ instantTurn b (.read 5) ready = .between ∧
       instantTurn b (.write 1 0x10) s = .after ∧ plainAccess (.write 1 0x10) = true) ∧ Ready ready ∧
    ready.place.cart ≠ .empty ∧
    (let s := idle [] { unknown with cart := .empty } Motion.afterPowerOn ready.banks
     Ready s ∧ s.place.cart = .empty) ∧
    (let a := order 0x12 [0] .travel .travel
     let s := running a 1000
     Sound s ∧ s.seq.active = some a ∧ s.events = [] ∧ s.power.state ≠ .sleep ∧ s.power.state ≠ .sleepPending ∧
       Healthy s ∧ s.place.cart ≠ .empty) :=
  ⟨by decide, ready_staged [], by decide, ⟨ready_idle _ _ _ _ (by decide) ⟨rfl, rfl⟩ (fun h => by cases h), rfl⟩,
    sound_running _ _, rfl, rfl, by decide, by decide, ⟨rfl, by decide⟩, by decide⟩

theorem test_w_HealthInput :
    (instantTurn (.input (.health .tempw) .level true) (.write 7 1) ready = .between ∧
      instantTurn (.input .wprot .level true) (.write 1 0x10) ready = .before ∧
      instantTurn (.input (.health .tempw) .pin true) (.write 7 1) ready = .after ∧ plainAccess (.write 7 1) = true) ∧
    ready.power.state ≠ .sleep ∧ asleep.power.state = .sleep ∧ Ready ready ∧
    ready.motion.request = none ∧ ready.health.recorded = 0#6 ∧ ready.health.mask &&& hotBit = 0#6 ∧
    ready.health.mask &&& driverBit = 0#6 ∧ hotBit &&& hotBit ≠ 0#6 ∧
    (let s := running (order 0x12 [0] .travel .travel) 1000
     Sound s ∧ s.events = [] ∧ s.power.state ≠ .sleep ∧ s.power.state ≠ .sleepPending ∧ Healthy s ∧
       s.motion.moving = true) ∧
    (let s := { running (order 0x28 [1, 0] .waitBank .travel) 1400 with motion := { ready.motion with tick := 1400 } }
     Sound s ∧ s.events = [] ∧ s.power.state ≠ .sleep ∧ s.power.state ≠ .sleepPending ∧ Healthy s ∧
       s.motion.moving = false) :=
  ⟨by decide, by decide, rfl, ready_staged [], rfl, rfl, by decide, by decide, by decide,
    ⟨sound_running _ _, rfl, by decide, by decide, ⟨rfl, by decide⟩, rfl⟩,
    ⟨sound_with _ ⟨rfl, rfl⟩ rfl rfl rfl rfl rfl rfl (by decide), rfl, by decide, by decide, ⟨rfl, by decide⟩, rfl⟩⟩

/-- 23 edges; even parity; items that may not be used; a part of 8 edges; and the DEVICE RESET with a LOCKOUT POKE. -/
theorem test_w_LinkFrames :
    (Alone { frame 0 true 0 with edges := 23 } ready ∧ ({ frame 0 true 0 with edges := 23 } : FrameBits).edges ≠ 24) ∧
    (Alone (frame 0 false 0) ready ∧ oddOnes (frameBits .ping (frame 0 false 0)) = false) ∧
    (itemAllowed .poke 3 = false ∧ itemAllowed .peek 15 = false) ∧ (8 : Nat) ≤ (frame 0 true 0).edges ∧
    ready.link.frame.selected = false ∧
    (let s := after (.ping { frame 0 true 0 with part := .opening }) ready
     plainAccess (.write 7 1) = true ∧ s.link.frame.selected = true ∧ (frame 0 true 0).edges ≤ s.link.frame.edges) ∧
    (Sound ready ∧ portActive ready = true ∧ (frame 5 true 1).part = .whole ∧
      ({ frame 5 true 1 with host := some (.write 1 0xEA) } : FrameBits).host = some (.write 1 0xEA) ∧
      frameValid .poke { frame 5 true 1 with host := some (.write 1 0xEA) } = true) :=
  ⟨⟨⟨rfl, rfl, rfl, rfl⟩, by decide⟩, ⟨⟨rfl, rfl, rfl, rfl⟩, by decide⟩, by decide, by decide, rfl, by decide, sound_ready, rfl, rfl,
    rfl, by decide⟩

theorem test_w_PeekAnswers :
    ready.power.state ≠ .sleep ∧ Alone (frame 8 false 0) ready ∧ frameValid .peek (frame 8 false 0) = true ∧
    (linkItem ready 8).isSome = true ∧ frameValid .peek (frame 10 true 0) = true ∧
    (linkItem ready 10).isSome = true ∧ frameValid .ping (frame 0 true 0) = true :=
  ⟨by decide, ⟨rfl, rfl, rfl, rfl⟩, by decide, by decide, by decide, by decide, by decide⟩

/-- The POKE of the example after R160, one of FAULT MASK and one of POWER CONTROL, set and clear. -/
theorem test_w_PokeWrites :
    Ready ready ∧ ready.motion.request = none ∧ Alone (frame 5 true 1) ready ∧ ready.link.sleepReq = false ∧
    frameValid .poke (frame 5 true 1) = true ∧ frameValid .poke (frame 4 false 1) = true ∧
    frameValid .poke (frame 6 true 1) = true ∧ frameValid .poke (frame 6 false 0) = true :=
  ⟨ready_staged [], rfl, ⟨rfl, rfl, rfl, rfl⟩, rfl, by decide, by decide, by decide, by decide⟩

theorem test_w_PeekClearClears :
    Sound ready ∧ ready.power.state ≠ .sleep ∧ Alone (frame 3 false 0) ready ∧
    frameValid .peekClear (frame 3 false 0) = true ∧ frameValid .peekClear (frame 1 true 0) = true ∧
    frameValid .peekClear (frame 2 true 0) = true :=
  ⟨sound_ready, by decide, ⟨rfl, rfl, rfl, rfl⟩, by decide, by decide, by decide⟩

/-- SLEEP PENDING with no order active. -/
def pendingSleep : State := { ready with power := { ready.power with state := .sleepPending } }

theorem test_w_PowerTimers :
    (ready.power.state = .active ∧ ready.setup.standbyDelay ≠ 0 ∧ ready.seq.active = none ∧ ready.seq.queue = [] ∧
      ready.motion.state = .stopped ∧ ready.inputs.rstLow = false) ∧
    (pendingSleep.power.state = .sleepPending ∧ pendingSleep.seq.active = none ∧ pendingSleep.inputs.rstLow = false ∧
      pendingSleep.motion.state ≠ .dwell) ∧
    asleep.power.state ≠ .active ∧ ready.power.state ≠ .sleepPending := by decide

theorem test_w_ForcedEntry :
    (ready.inputs.rstLow = false ∧ ready.power.state ≠ .sleep) ∧ pendingSleep.power.state = .sleepPending ∧
    (running (order 0x12 [0] .travel .travel) 1000).motion.moving = true ∧ ready.motion.moving = false ∧
    ready.framer.capture = none := by decide

theorem test_w_WakeUp :
    asleep.inputs.rstLow = false ∧ asleep.power.state = .sleep ∧ asleep.link.sleepReq = false := by decide

theorem test_w_AfterEveryReset :
    ResetBy (.powerOn quietPins) ready ∧ ResetBy .deviceReset ready ∧ ResetBy .rstAssertion ready ∧ ResetBy .wake asleep :=
  ⟨.inl ⟨_, rfl⟩, .inr (.inl ⟨rfl, rfl⟩), .inr (.inr (.inl ⟨rfl, rfl⟩)), .inr (.inr (.inr ⟨rfl, rfl, rfl, rfl⟩))⟩

/-- A release of RST/ with the cartridge still there and with it gone, and one in a part that slept at the assertion. -/
theorem test_w_AfterEveryReset_release :
    (∀ x : Inputs, x.rstLow = true → Sound { held with inputs := x } ∧ HeldInReset { held with inputs := x }) ∧
    held.inputs.rstLow = true ∧ held.power.rstFromSleep = false ∧ held.inputs.cartin.pin = true ∧
    held.place.cart ≠ .empty ∧
    (let s := after .rstAssertion asleep
     Sound s ∧ HeldInReset s ∧ s.inputs.rstLow = true ∧ s.power.rstFromSleep = true) :=
  ⟨fun _ _ => ⟨sound_with _ ⟨rfl, rfl⟩ rfl rfl rfl rfl rfl rfl (by show held.motion.state ≠ .inhibited; decide),
      fun _ => ⟨rfl, rfl, rfl, rfl, rfl, ⟨rfl, rfl, rfl, rfl⟩, .inl rfl, rfl, rfl⟩⟩, rfl, rfl, rfl, by decide,
    sound_with _ ⟨rfl, rfl⟩ rfl rfl rfl rfl rfl rfl (by decide),
    fun _ => ⟨rfl, rfl, rfl, rfl, rfl, ⟨rfl, rfl, rfl, rfl⟩, .inl rfl, rfl, rfl⟩, rfl, rfl⟩

theorem held_holds : HeldInReset held := by
  intro _
  unfold held
  exact ⟨rfl, rfl, rfl, rfl, rfl, ⟨rfl, rfl, rfl, rfl⟩, .inl rfl, rfl, rfl⟩

theorem test_w_ResetReports :
    (HeldInReset ready ∧ resetCause ready (.powerOn quietPins) = some .powerOn ∧
      resetCause ready .deviceReset = some .deviceReset) ∧
    (HeldInReset held ∧ resetCause held .rstRelease = some .pinReset) ∧
    (HeldInReset asleep ∧ resetCause asleep .wake = some .wake) :=
  ⟨⟨(fun h => by cases h), rfl, rfl⟩, ⟨held_holds, rfl⟩, ⟨(fun h => by cases h), rfl⟩⟩

/-- A millisecond with RST/ low, and a fault that becomes present then. -/
theorem test_w_HeldWhileRstLow :
    HeldInReset held ∧ held.inputs.rstLow = true ∧ (∃ t, step held = .next t) ∧
    ∃ t, step { held with pending := [.healthInputChange ⟨.health .drvflt, .level, none⟩ false] } = .next t ∧ t.inputs.rstLow = true :=
  ⟨held_holds, rfl, ⟨_, rfl⟩, _, rfl, rfl⟩

end Sys2Proof.Tests
end

section
/-! SUPPORT. The Host Port's accesses (R3 to R22, R47, R48, R118 to R122): one rule per access, and the statements about
them. -/

namespace Sys2Proof.Machine

/-! ### Which accesses reach the port (R5, R12, R13) -/

theorem csRead_active (act : State → State) {s : State} (h : portActive s = true) : csRead act s = act s := if_pos h

theorem csWrite_active (act : State → State) {s : State} (h : portActive s = true) : csWrite act s = act s := if_pos h

theorem csRead_inactive (act : State → State) {s : State} (h : portActive s = false) : csRead act s = drive 0 s := by
  simp [csRead, h]

theorem csWrite_inactive (act : State → State) {s : State} (h : portActive s = false) : csWrite act s = s := by
  simp [csWrite, h]

theorem dackStrobe_inactive (act : State → State) {s : State} (h : portActive s = false) : dackStrobe act s = s := by
  simp [dackStrobe, h]

/-- R13: outside DMA mode a DACK/ strobe is no access. -/
theorem dackStrobe_pio (act : State → State) {s : State} (h : dmaMode s = false) : dackStrobe act s = s := by
  simp [dackStrobe, h]

/-- R12: a Data Port access that reaches the port acts, by whichever path. -/
theorem dataAccess_open {via : BusPath} {s : State} (h : AccessOpen via s) {byCs act : State → State}
    (hc : byCs s = act s) : dataAccess via byCs act s = act s := by
  obtain ⟨port, mode⟩ := h
  cases via with
  | cs => exact hc
  | dack => exact if_pos (by simp [port, mode rfl])

/-- R5: the port is inactive under RST/, in SLEEP and in the wait after a wake, and then only. -/
theorem portActive_false (s : State) :
    portActive s = false ↔ s.inputs.rstLow = true ∨ s.power.state = .sleep ∨ s.power.portWait ≠ 0 := by
  unfold portActive
  cases s.inputs.rstLow with
  | true => exact ⟨fun _ => .inl rfl, fun _ => rfl⟩
  | false =>
    by_cases hp : s.power.state = .sleep
    · simp only [hp, bne_self_eq_false, Bool.and_false, Bool.false_and, true_or, or_true]
    · by_cases hw : s.power.portWait = 0
      · simp only [hp, hw, bne_iff_ne.2 hp, Bool.not_false, Bool.true_and, beq_self_eq_true, Bool.true_eq_false,
          Bool.false_eq_true, ne_eq, not_true_eq_false, or_self]
      · simp only [hp, hw, beq_eq_false_iff_ne.2 hw, Bool.and_false, not_false_eq_true, ne_eq, or_true]

/-! ### The Data Port (R12, R118 to R122) -/

theorem exec_dataRead {via : BusPath} {s : State} (h : AccessOpen via s) :
    exec (.dataRead via) s = .next (dataPortRead s) :=
  congrArg _ (dataAccess_open h (csRead_active _ h.1))

theorem exec_dataWrite {via : BusPath} {s : State} (v : Byte) (h : AccessOpen via s) :
    exec (.dataWrite via v) s = .next (dataPortWrite v s) :=
  congrArg _ (dataAccess_open h (csWrite_active _ h.1))

/-- R120: the bank that a byte is taken from is DRAINING, or EMPTY after its last. -/
theorem takeByte_eq (k : Banks) (id : BankId) :
    k.takeByte id = k.set id (if (k.get id).length ≤ (k.get id).moved + 1 then .cleared
      else { k.get id with state := .draining, moved := (k.get id).moved + 1 }) := by
  unfold Banks.takeByte
  dsimp only
  split <;> rfl

/-- R122: a byte goes to the FILLING bank. -/
theorem storeByte_filling {k : Banks} {id : BankId} (e : QueueEntry) (v : Byte) (h : k.fillSide = some id) :
    storeByte e v k = some (k.set id ((k.get id).append v)) := by
  simp [storeByte, h]

/-- R122: with no FILLING bank a byte claims one, if one is EMPTY. -/
theorem storeByte_claims {k : Banks} (e : QueueEntry) (v : Byte) (h : k.fillSide = none) :
    storeByte e v k = k.toClaim.map fun id => k.claim id (fillingBank e v) := by
  simp [storeByte, h]

/-- R12: a write of DATA that the banks take. -/
theorem dataPortWrite_stored {s : State} {e : QueueEntry} {v : Byte} {k : Banks} (ht : fillTarget s = some e)
    (hk : storeByte e v s.banks = some k) : dataPortWrite v s = settle { s with banks := k } := by
  simp [dataPortWrite, ht, hk]

/-- R12: a write of DATA that no bank takes. -/
theorem dataPortWrite_refused {s : State} {e : QueueEntry} {v : Byte} (ht : fillTarget s = some e)
    (hk : storeByte e v s.banks = none) : dataPortWrite v s = setDataError s := by
  simp [dataPortWrite, ht, hk]

/-- Settles O8, by the bank on the host side. -/
theorem dataReadTakesByte : Obligations.DataReadTakesByte := by
  unfold Obligations.DataReadTakesByte
  intro via s h
  rw [exec_dataRead h]
  refine ⟨fun hr => ?_, fun id hr => ?_⟩
  · simp only [dataPortRead, hr]; rfl
  · simp only [dataPortRead, hr, takeData, takeByte_eq]; rfl

/-- Settles O9, by the fill target and the bank that takes the byte. -/
theorem dataWriteStoresByte : Obligations.DataWriteStoresByte := by
  unfold Obligations.DataWriteStoresByte
  intro via v s h
  rw [exec_dataWrite v h]
  refine ⟨fun ht => ?_, fun e ht hf hc => ?_, fun e id ht hf => ?_, fun e id ht hf hc => ?_⟩
  · simp only [dataPortWrite, ht]; rfl
  · rw [dataPortWrite_refused ht (by rw [storeByte_claims e v hf, hc]; rfl)]; rfl
  · rw [dataPortWrite_stored ht (storeByte_filling e v hf)]; rfl
  · rw [dataPortWrite_stored ht (by rw [storeByte_claims e v hf, hc]; rfl)]; rfl

/-! ### Accesses that conflict (R3, R14) -/

/-- Settles O10: an access reaches the part by CS/, or by DACK/ in DMA mode. -/
theorem strobeConflict : Obligations.StrobeConflict := by
  unfold Obligations.StrobeConflict
  intro cs dack addr s
  have reach : strobeReaches cs dack s = true ↔ cs = true ∨ (dack = true ∧ dmaMode s = true) := by
    simp [strobeReaches]
  show execStrobeConflict cs dack addr s = _
  unfold execStrobeConflict
  by_cases hr : strobeReaches cs dack s = true
  · rw [if_neg (by simp [hr]), if_pos (reach.1 hr)]
    have hd : (portActive s && strobeAtData cs dack addr s) =
        (portActive s && (dack && dmaMode s || cs && decide (addr = 0))) := rfl
    rw [← hd]
    cases portActive s && strobeAtData cs dack addr s <;> simp [setDataError, drive]
  · rw [if_pos (by simpa using hr), if_neg (fun k => hr (reach.2 k))]

/-- DREQ does not depend on the Host Port's own registers (R13). -/
theorem dreq_setHost (s : State) (x : HostPort) : dreq { s with host := x } = dreq s := rfl

/-- Settles O11: only DATA ERROR and the byte driven change. -/
theorem csDackConflictIgnored : Obligations.CsDackConflictIgnored := by
  unfold Obligations.CsDackConflictIgnored
  intro access s hp hd
  have he : exec (.csDackConflict access) s = .next (conflictAccess access s) := if_pos (by simp [hp, hd])
  cases access <;> exact ⟨_, he, dreq_setHost s _, rfl⟩

/-! ### The inactive port (R5) -/

/-- R5: an access of the window with the port inactive drives 00h, or is nothing. -/
theorem csDackConflict_inactive {access : HostAccess} {s : State} (h : portActive s = false) :
    exec (.csDackConflict access) s = .next (hostAccess access s) := if_neg (by simp [h])

/-- R21: an order is known by its value alone: each order's command is the write of its code to ORDER. -/
theorem exec_order {i : Instr} {c : Byte} (h : orderCode i = some c) (s : State) :
    exec i s = exec (.registerWrite 1 c) s := by
  have queued : ∀ code : Byte, code ≠ 0xE1 → code ≠ 0xE2 → code ≠ 0xEA →
      .next (writeOrder code s) = exec (.registerWrite 1 code) s := by
    intro code h1 h2 h3
    have hw : windowWrite 1 code s = offerOrder code s := by
      show orderByte code s = _
      rw [orderByte, if_neg h1, if_neg h2, if_neg h3]
    show _ = Host.Outcome.next (csWrite (windowWrite 1 code) s)
    rw [csWrite, hw, writeOrder]
  cases i <;> simp only [orderCode, reduceCtorEq, Option.some.injEq] at h <;> subst h
  case unknownCode | halt | emergencyStop | deviceReset => rfl
  all_goals exact queued _ (by decide) (by decide) (by decide)

/-- R5: a write at any address is nothing while the port is inactive. -/
theorem exec_registerWrite_inactive (addr : BitVec 3) (v : Byte) {s : State} (h : portActive s = false) :
    exec (.registerWrite addr v) s = .next s := congrArg _ (hostAccess_inactive addr v h)

theorem exec_read_inactive {i : Instr} {s : State} (h : portActive s = false) (hi : readsPort i = true) :
    exec i s = .next (drive 0 s) := by
  cases i <;> simp only [readsPort, reduceCtorEq] at hi
  case dataRead via =>
    cases via <;> simp only [reduceCtorEq] at hi
    exact congrArg _ (csRead_inactive _ h)
  case csDackConflict access =>
    cases access <;> simp only [reduceCtorEq] at hi
    rw [csDackConflict_inactive h]
    exact congrArg _ (csRead_inactive _ h)
  case reportRead | setupDataRead => exact congrArg _ (csRead_inactive _ h)

theorem exec_write_inactive {i : Instr} {s : State} (h : portActive s = false) (hi : writesPort i = true) :
    exec i s = .next s := by
  have order (h1 : (orderCode i).isSome = true) : exec i s = .next s := by
    obtain ⟨c, hc⟩ := Option.isSome_iff_exists.1 h1
    rw [exec_order hc, exec_registerWrite_inactive 1 c h]
  cases i <;> simp only [writesPort] at hi
  case dataRead via =>
    cases via <;> simp [orderCode] at hi
    exact congrArg _ (dackStrobe_inactive _ h)
  case dataWrite via v =>
    cases via
    · exact congrArg _ (csWrite_inactive _ h)
    · exact congrArg _ (dackStrobe_inactive _ h)
  case csDackConflict access =>
    cases access <;> simp [orderCode] at hi
    rw [csDackConflict_inactive h, hostAccess_inactive _ _ h]
  case registerWrite addr v => exact exec_registerWrite_inactive addr v h
  case param | acknowledge | reportRewind | interruptEnable | flagClear | setupDataWrite | faultClear |
      mapEntryCommit => exact congrArg _ (csWrite_inactive _ h)
  all_goals exact order hi

/-- Settles O12. -/
theorem inactivePort : Obligations.InactivePort := by
  unfold Obligations.InactivePort
  intro i s
  refine ⟨portActive_false s, fun h => by simp [irqActive, dreq, h], exec_read_inactive, exec_write_inactive,
    fun hd hi => ?_⟩
  rcases hi with rfl | ⟨v, rfl⟩ <;> exact congrArg _ (dackStrobe_pio _ hd)

/-! ### Plain registers and the register window (R4, R7, R10, R20, R21) -/

/-- Settles O13. -/
theorem plainRegisters : Obligations.PlainRegisters := by
  unfold Obligations.PlainRegisters
  intro v s hp
  have param : exec (.param v) s = .next (stageParam v s) := congrArg _ (csWrite_active _ hp)
  refine ⟨fun h => ?_, fun h => ?_, congrArg _ (csWrite_active _ hp), congrArg _ (csWrite_active _ hp)⟩
  · exact param.trans (congrArg _ (if_pos h))
  · exact param.trans (congrArg _ (if_neg (Nat.not_lt.2 h)))

/-- R48: a write to REPORT CONTROL of another value is ignored. -/
theorem reportControl_other {v : Byte} (h1 : v ≠ 1) (h2 : v ≠ 2) (s : State) : reportControl v s = s := by
  rw [reportControl, if_neg h1, if_neg h2]

/-- R13: in PIO mode an access with DACK/ asserted as well is the plain access. -/
theorem csDackConflict_pio {access : HostAccess} {s : State} (h : dmaMode s = false) :
    exec (.csDackConflict access) s = .next (hostAccess access s) := if_neg (by simp [h])

/-- Settles O15, address by address. -/
theorem registerWindow : Obligations.RegisterWindow := by
  unfold Obligations.RegisterWindow
  refine ⟨fun v s => ⟨rfl, rfl, rfl, rfl, rfl, rfl, rfl, fun h1 h2 => ?_, fun hp => ?_⟩,
    fun i c s h => exec_order h s, fun v addr s hp hd => ?_⟩
  · show Host.Outcome.next (csWrite (reportControl v) s) = _
    unfold csWrite
    rw [reportControl_other h1 h2, ite_self]
  · exact congrArg _ (csWrite_active _ hp)
  · have read (a : BitVec 3) : exec (.csDackConflict (.read a)) s = .next (windowRead a s) := by
      rw [csDackConflict_pio hd]; exact congrArg _ (csRead_active _ hp)
    exact ⟨csDackConflict_pio hd, csDackConflict_pio hd, csDackConflict_pio hd, csDackConflict_pio hd,
      read 1, read 2, read 4, read 5, read 6⟩

end Sys2Proof.Machine
end

section
/-! SUPPORT. Setup Space (R15 to R18, R173, R175, R184, R185) and the acceptance of an order (R21, R22): one rule per case,
and the statements about them. -/

namespace Sys2Proof.Machine

/-! ### Reads of SETUP DATA (R15, R18) -/

theorem exec_setupDataRead {s : State} (h : portActive s = true) : exec .setupDataRead s = .next (setupRead s) :=
  congrArg _ (csRead_active _ h)

theorem setupRead_item {s : State} {r : ItemRow} (h : itemAt s.host.setupIndex = some r) :
    setupRead s = stepIndex (readItem r (s.host.setupIndex.toNat - r.base) s) := by
  simp only [setupRead, h]

/-- R15: a single byte is read live. -/
theorem readItem_single {r : ItemRow} (h : r.size = 1) (s : State) :
    readItem r 0 s = drive (valueByte (itemValue s r.item) 0) s := by
  simp [readItem, h]

/-- R18: a read of the lowest byte of a longer item takes its snapshot. -/
theorem readItem_lowest {r : ItemRow} (h : r.size ≠ 1) (s : State) :
    readItem r 0 s = takeSnap r.index (itemValue s r.item) (drive (valueByte (itemValue s r.item) 0) s) := by
  simp [readItem, h]

/-- R18: a read of a higher byte shows the snapshot. -/
theorem readItem_higher {k : Nat} (h : k ≠ 0) (r : ItemRow) (s : State) :
    readItem r k s = drive (valueByte (snapValue r.index (itemValue s r.item) s) k) s := by
  simp [readItem, h]

theorem snapValue_eq (base : Byte) (live : Nat) (s : State) :
    snapValue base live s = ((s.host.snaps.find? fun e => e.1 == base).map Prod.snd).getD live := by
  unfold snapValue
  cases s.host.snaps.find? fun e => e.1 == base <;> rfl

/-- Settles O16, by the place of the index in its item. -/
theorem setupDataRead : Obligations.SetupDataRead := by
  unfold Obligations.SetupDataRead
  intro s hp
  rw [exec_setupDataRead hp]
  refine ⟨fun hn => ?_, fun r hr hb h1 => ?_, fun r hr hb h1 => ?_, fun r hr hb => ?_⟩
  · simp only [setupRead, hn]; rfl
  · rw [setupRead_item hr, hb, Nat.sub_self, readItem_single h1]; rfl
  · rw [setupRead_item hr, hb, Nat.sub_self, readItem_lowest h1]; rfl
  · rw [setupRead_item hr, readItem_higher (Nat.sub_ne_zero_of_lt hb), snapValue_eq]; rfl

/-! ### Writes of SETUP DATA (R15 to R17) -/

theorem exec_setupDataWrite (v : Byte) {s : State} (h : portActive s = true) :
    exec (.setupDataWrite v) s = .next (setupWrite v s) := congrArg _ (csWrite_active _ h)

theorem setupWrite_item (v : Byte) {s : State} {r : ItemRow} (h : itemAt s.host.setupIndex = some r) :
    setupWrite v s = setIndex (s.host.setupIndex + 1) (writeItem r v s) := by
  simp only [setupWrite, h]

theorem writeItem_readOnly {r : ItemRow} (v : Byte) (s : State) (h : r.item.cls = .readOnly) :
    writeItem r v s = setSetupError s.host.setupIndex s := if_pos h

/-- R16: below the highest byte of an item a byte goes to the shadow. -/
theorem writeItem_lower {r : ItemRow} (v : Byte) {s : State} (h : r.item.cls ≠ .readOnly)
    (hl : s.host.setupIndex.toNat + 1 < r.base + r.size) :
    writeItem r v s = storeShadow s.host.setupIndex v s := by
  rw [writeItem, if_neg h, if_pos hl]

/-- R16: at the highest byte of a writable item the assembled value is offered. -/
theorem writeItem_highest {r : ItemRow} (v : Byte) {s : State} (h : r.item.cls = .writable)
    (hl : s.host.setupIndex.toNat + 1 = r.base + r.size) :
    writeItem r v s = commitItem r (assembled s r v) (clearShadow r s) := by
  rw [writeItem, if_neg (by simp [h]), if_neg (by omega), commitValue, h]

/-- R17: a value out of range is refused. -/
theorem commitItem_refused {r : ItemRow} {n : Nat} (s : State) (h : r.item.accepts n = false) :
    commitItem r n s = setSetupError r.index s := if_neg (by simp [h])

/-- R16: a value in range is stored, and a timer already running is compared with it. -/
theorem commitItem_accepted {r : ItemRow} {n : Nat} (s : State) (h : r.item.accepts n = true) :
    commitItem r n s = retime r.item { s with setup := s.setup.store r.item n } := if_pos h

/-- R173, R175: an item that no timer runs on. -/
theorem retime_other {item : Item} (s : State) (h1 : item ≠ .standbyDelay) (h2 : item ≠ .sleepDeadline) :
    retime item s = s := by
  unfold retime
  split <;> first | rfl | contradiction

/-- R173: the standby condition, condition by condition. -/
theorem standbyCondition_iff (s : State) : standbyCondition s = true ↔
    s.power.state = .active ∧ s.setup.standbyDelay ≠ 0 ∧ s.seq.active = none ∧ s.seq.queue = [] ∧
      s.motion.state = .stopped ∧ s.inputs.rstLow = false := by
  simp [standbyCondition, busy, and_assoc]

/-- R173: a STANDBY DELAY of 0 stops the timer. -/
theorem retime_standby_off {s : State} (h : s.setup.standbyDelay = 0) :
    retime .standbyDelay s = { s with power := { s.power with standbyTimer := 0 } } := if_pos h

/-- R173: a STANDBY DELAY that the timer has passed makes the entry at once. -/
theorem retime_standby_due {s : State} (hc : standbyCondition s = true) (ht : standbyMs s ≤ s.power.standbyTimer) :
    retime .standbyDelay s = enterStandby s := by
  have hd := ((standbyCondition_iff s).1 hc).2.1
  show (if s.setup.standbyDelay = 0 then _ else _) = _
  rw [if_neg hd, if_pos (by simp [hc, ht])]

theorem retime_standby_later {s : State} (hd : s.setup.standbyDelay ≠ 0)
    (h : ¬ (standbyCondition s = true ∧ standbyMs s ≤ s.power.standbyTimer)) : retime .standbyDelay s = s := by
  show (if s.setup.standbyDelay = 0 then _ else _) = _
  rw [if_neg hd, if_neg (by simpa using h)]

/-- R175, R176: a SLEEP DEADLINE that the timer has passed makes the entry at once. -/
theorem retime_deadline (s : State) : retime .sleepDeadline s =
    if s.power.state = .sleepPending ∧ deadlineMs s ≤ s.power.deadlineTimer then forcedSleep s else s := rfl

/-- A cut capture does not concern the Host Port. -/
theorem cutCapture_setIndex (i : Byte) (s : State) : cutCapture (setIndex i s) = setIndex i (cutCapture s) := by
  simp only [cutCapture, setIndex]
  split <;> rfl

/-- A hold does not concern the Host Port. -/
theorem hold_setIndex (b : Bool) (i : Byte) (s : State) : hold b (setIndex i s) = setIndex i (hold b s) := by
  rw [hold, hold, apply_ite (setIndex i), ← cutCapture_setIndex]
  rfl

theorem cutLoad_setIndex (i : Byte) (s : State) : cutLoad (setIndex i s) = setIndex i (cutLoad s) := by
  rw [cutLoad, cutLoad, apply_ite (setIndex i)]
  rfl

/-- R176: a forced entry does not concern the Host Port's registers. -/
theorem forcedSleep_setIndex (i : Byte) (s : State) : forcedSleep (setIndex i s) = setIndex i (forcedSleep s) := by
  have still : (if (setIndex i s).motion.moving then hold false (setIndex i s) else setIndex i s) =
      setIndex i (if s.motion.moving then hold false s else s) := by
    rw [hold_setIndex, apply_ite (setIndex i)]
    rfl
  rw [forcedSleep, forcedSleep, still, cutLoad_setIndex]
  rfl

/-- Settles O17, by the class of the item, the place of the index in it and the range of the value. -/
theorem setupDataWrite : Obligations.SetupDataWrite := by
  unfold Obligations.SetupDataWrite
  intro v s hp
  rw [exec_setupDataWrite v hp]
  refine ⟨fun hn => ?_, fun r hr hc => ?_, fun r hr hc hl => ?_, fun r hr hc hl => ?_⟩
  · simp only [setupWrite, hn]; rfl
  · rw [setupWrite_item v hr, writeItem_readOnly v s hc]; rfl
  · rw [setupWrite_item v hr, writeItem_lower v hc hl]; rfl
  · rw [setupWrite_item v hr, writeItem_highest v hc hl]
    refine ⟨fun ha => ?_, fun ha u hu => ?_⟩
    · rw [commitItem_refused _ ha]; rfl
    · rw [commitItem_accepted _ ha]
      have port : s.inputs.rstLow = false := by
        cases hl : s.inputs.rstLow
        · rfl
        · rw [(portActive_false s).2 (.inl hl)] at hp; cases hp
      generalize ht : ({ clearShadow r s with
        setup := (clearShadow r s).setup.store r.item (assembled s r v) } : State) = t
      have htu : setIndex (s.host.setupIndex + 1) t = u := by rw [← ht, hu]; rfl
      have power : t.power = s.power := by rw [← ht]; rfl
      have setup : t.setup = u.setup := by rw [← htu]; rfl
      have due : standbyCondition t = true ∧ standbyMs t ≤ t.power.standbyTimer ↔
          u.setup.standbyDelay ≠ 0 ∧ (s.power.state = .active ∧ s.seq.active = none ∧ s.seq.queue = [] ∧
            s.motion.state = .stopped ∧ u.setup.standbyDelay.toNat * 100 ≤ s.power.standbyTimer) := by
        have seq : t.seq = s.seq := by rw [← ht]; rfl
        have motion : t.motion = s.motion := by rw [← ht]; rfl
        have inputs : t.inputs = s.inputs := by rw [← ht]; rfl
        rw [standbyCondition_iff, standbyMs, power, setup, seq, motion, inputs]
        simp only [port, and_true, Config.delayUnitMs]
        exact ⟨fun ⟨⟨p, d, a, q, m⟩, t⟩ => ⟨d, p, a, q, m, t⟩, fun ⟨d, p, a, q, m, t⟩ => ⟨⟨p, d, a, q, m⟩, t⟩⟩
      refine ⟨fun h1 h2 => ?_, fun h1 => ⟨fun h0 => ?_, fun h0 hd => ?_, fun h0 hd => ?_⟩,
        fun h1 => ⟨fun hd => ?_, fun hd => ?_⟩⟩
      · rw [retime_other _ h1 h2, htu]
      · rw [h1, retime_standby_off (setup ▸ h0), ← htu, power]; rfl
      · obtain ⟨hc, hm⟩ := due.2 ⟨h0, hd⟩
        rw [h1, retime_standby_due hc hm, ← htu, ← power]; rfl
      · rw [h1, retime_standby_later (setup ▸ h0) fun k => hd (due.1 k).2, htu]
      · rw [h1, retime_deadline, if_pos (by rw [deadlineMs, power, setup]; exact hd), ← forcedSleep_setIndex, htu]
      · rw [h1, retime_deadline, if_neg (by rw [deadlineMs, power, setup]; exact hd), htu]

/-! ### What a commit leaves to be read (R16, R184, R185) -/

theorem PartTable.get_set_same (t : PartTable) (p : PartNo) (r : PartRecord) : (t.set p r).get p = r := by
  unfold PartTable.get PartTable.set
  split <;> simp_all

theorem part_cases : ∀ p : PartNo, p = 0 ∨ p = 1 ∨ p = 2 ∨ p = 3 := by decide

theorem PartTable.get_set_other (t : PartTable) {p q : PartNo} (r : PartRecord) (h : q ≠ p) :
    (t.set p r).get q = t.get q := by
  rcases part_cases p with rfl | rfl | rfl | rfl <;> rcases part_cases q with rfl | rfl | rfl | rfl <;>
    first | rfl | exact absurd rfl h

/-- R184, R185: a committed value is read back where it is stored. -/
theorem itemValue_store_same (s : State) {item : Item} {v : Nat} (hc : item.cls = .writable)
    (ha : item.accepts v = true) (hv : v < 256 ^ item.bytes) :
    itemValue { s with setup := s.setup.store item v } item = v := by
  cases item
  case partStart p | partLength p =>
    simp only [itemValue, Setup.store, PartTable.get_set_same, BitVec.toNat_ofNat]
    exact Nat.mod_eq_of_lt hv
  case partEnabled p =>
    simp only [Item.accepts, decide_eq_true_eq] at ha
    simp only [itemValue, Setup.store, PartTable.get_set_same, bne_iff_ne]
    split <;> omega
  all_goals first | contradiction | exact (BitVec.toNat_ofNat ..).trans (Nat.mod_eq_of_lt hv)

/-- R16: the partition table apart, a commit changes one item of the setup and no other. -/
theorem itemValue_store_other (s : State) {item other : Item} (v : Nat) (hc : other.cls = .writable)
    (hn : other ≠ item) :
    itemValue { s with setup := s.setup.store item v } other = itemValue s other := by
  cases item
  case partStart p | partLength p | partEnabled p =>
    cases other
    case partStart q | partLength q | partEnabled q =>
      simp only [itemValue, Setup.store]
      by_cases hq : q = p
      · subst hq
        first | contradiction | simp only [PartTable.get_set_same]
      · simp only [PartTable.get_set_other _ _ hq]
    all_goals rfl
  all_goals cases other <;> first | rfl | contradiction

/-- Settles O18: a commit changes the item that it names, and no other. -/
theorem setupReadsBack : Obligations.SetupReadsBack := by
  unfold Obligations.SetupReadsBack
  intro s r v hr hc ha hv
  have size := writable_size r hr hc
  exact ⟨itemValue_store_same s hc ha (size ▸ hv), fun q _ hqc hq => itemValue_store_other s v hqc hq⟩

/-! ### Acceptance of an order (R21, R22) -/

/-- R21: a queued order's code is no immediate order's. -/
theorem queuedCode_spec {i : Instr} {c : Byte} (h : queuedCode i = some c) :
    orderCode i = some c ∧ c ≠ 0xE1 ∧ c ≠ 0xE2 ∧ c ≠ 0xEA := by
  obtain ⟨hc, hi⟩ := Option.filter_eq_some_iff.1 h
  simp only [Bool.and_eq_true, bne_iff_ne] at hi
  exact ⟨hc, hi.1.1, hi.1.2, hi.2⟩

/-- R21, R22: a queued order written to an active port is offered to the Order Queue. -/
theorem exec_queued {i : Instr} {c : Byte} {s : State} (h : queuedCode i = some c) (hp : portActive s = true) :
    exec i s = .next (offerOrder c s) := by
  obtain ⟨hc, h1, h2, h3⟩ := queuedCode_spec h
  rw [exec_order hc]
  refine congrArg _ ((csWrite_active _ hp).trans ?_)
  show orderByte c s = _
  rw [orderByte, if_neg h1, if_neg h2, if_neg h3]

theorem offerOrder_room {s : State} (c : Byte) (h : s.seq.queue.length < 4) :
    offerOrder c s = settle (acceptOrder c s) := if_pos h

theorem offerOrder_full {s : State} (c : Byte) (h : 4 ≤ s.seq.queue.length) : offerOrder c s = rejectOrder s :=
  if_neg (Nat.not_lt.2 h)

/-- R22, R27: behind an order that needs nothing, an acceptance is all that happens. -/
theorem acceptOrder_steady {s : State} (c : Byte) (h : Steady s) (ha : s.seq.active.isSome = true) :
    Steady (acceptOrder c s) := by
  obtain ⟨events, awake, due⟩ := h
  obtain ⟨a, ha⟩ := Option.isSome_iff_exists.1 ha
  simp only [ha] at due
  exact steady_of events awake ha due.1 due.2

/-- Settles O23, by the room in the Order Queue. -/
theorem orderAccepted : Obligations.OrderAccepted := by
  unfold Obligations.OrderAccepted
  intro i c s hi hp
  rw [exec_queued hi hp]
  refine ⟨fun h => ?_, fun h hs ha => ?_, fun h => ?_⟩
  · rw [offerOrder_room c h]; rfl
  · rw [offerOrder_room c h, settle_steady (acceptOrder_steady c hs ha)]; rfl
  · rw [offerOrder_full c h]; rfl

/-! ### The machine (R3, R179) -/

/-- Settles O1: no command waits behind the one at the front that a step carries out. -/
theorem stepRunsFront : Obligations.StepRunsFront := by
  unfold Obligations.StepRunsFront
  intro c rest s h
  rw [step, h]

/-- R179: the state after reset is what a power-on reset makes under the pins of log 1. -/
theorem powerOnReset_quiet : powerOnReset quietPins State.reset = State.reset := by decide

/-- Settles O3: a power-on reset leaves a sound state. -/
theorem resetSound : Obligations.ResetSound := by
  unfold Obligations.ResetSound
  rw [← powerOnReset_quiet]
  exact powerOnReset_sound quietPins State.reset

end Sys2Proof.Machine
end

section
/-! SUPPORT. The power states and the resets (R5, R55, R93, R117, R144, R153, R171 to R181): what an inhibit, a sleep entry
and a hold leave of a part at rest, and the statements about the power states and the resets. -/

namespace Sys2Proof.Machine

/-! ### The power states (R5, R173, R174, R177) -/

theorem enterSleep_idle {s : State} (ha : s.seq.active = none) (hd : s.motion.state ≠ .dwell) : enterSleep s = { s with
    power := { s.power with
      state := .sleep, standbyTimer := 0, deadlineTimer := 0, lost := s.seq.queue.length, lostActive := false }
    seq := { s.seq with staging := [], queue := [], haltPending := false }
    motion := { s.motion with
      request := none, waiting := none, settling := false, settleTimer := 0, dwellTimer := 0, seek := .none }
    events := [] } := by
  simp [enterSleep, cancelRequest, ha, hd]

theorem deferredDue_iff (s : State) : deferredDue s = true ↔
    s.power.state = .sleepPending ∧ s.seq.active = none ∧ s.inputs.rstLow = false := by
  simp [deferredDue, and_assoc]

/-- Settles O55, by what is due. -/
theorem powerTimers : Obligations.PowerTimers := by
  unfold Obligations.PowerTimers
  intro s
  refine ⟨rfl, ⟨fun h => ?_, fun h => ?_⟩, fun hp ha hr hd => ?_, fun h => ?_⟩
  · exact if_pos ((standbyCondition_iff s).2 h)
  · exact if_neg fun k => h ((standbyCondition_iff s).1 k)
  · rw [← enterSleep_idle ha hd]
    exact if_pos ((deferredDue_iff s).2 ⟨hp, ha, hr⟩)
  · refine if_neg fun k => ?_
    obtain ⟨hp, ha, hr⟩ := (deferredDue_iff s).1 k
    simp [hp, ha, hr] at h

/-! ### An inhibit of a part at rest (R84, R85, R151) -/

/-- R151: the motion state that the faults impose on a transport at rest. -/
def Health.imposes (h : Health) (rest : MotionState) : MotionState :=
  if h.motionFault then .inhibited else if rest = .inhibited then .stopped else rest

theorem imposes_inhibited (h : Health) (rest : MotionState) :
    h.imposes rest = .inhibited ↔ h.motionFault = true := by
  unfold Health.imposes
  split
  · simp [*]
  · split <;> simp [*]

/-- What telling the controller of the faults leaves of a part at rest: only its motion state, the waits that an inhibit
abandons, and a STANDBY that it ends. -/
structure Imposed (s t : State) : Prop where
  eq : t = { s with motion := t.motion, power := t.power, place := { s.place with position := t.place.position } }
  position : Anchored s → t.place.position = s.place.position
  kept : Kept s.motion t.motion
  rate : t.motion.rate = s.motion.rate
  overshoot : t.motion.lastOvershoot = s.motion.lastOvershoot
  state : t.motion.state = s.health.imposes s.motion.state
  still : t.motion.moving = false
  rested : cancelRequest s.motion = s.motion → cancelRequest t.motion = t.motion
  power : t.power = { s.power with state := t.power.state, standbyTimer := t.power.standbyTimer }
  awake : s.power.state ≠ .standby → t.power.state = s.power.state
  timer : s.power.standbyTimer = 0 → t.power.standbyTimer = 0

theorem holdMotion_rest {m : Motion} (hm : m.moving = false) (hq : m.request = none) : holdMotion true m =
    { motion := { m with state := .inhibited, waiting := none, settling := false, settleTimer := 0, dwellTimer := 0 }
      events := [] } := by
  simp [holdMotion, hm, hq]

theorem hold_rest_eq {s : State} (hm : s.motion.moving = false) :
    hold true s = handOver (holdMotion true s.motion) s := by
  rw [hold, if_neg (by simp [hm])]

/-- R151: telling the controller of the faults, the transport at rest with nothing asked of it. -/
theorem inhibitController_imposed {s : State} (hm : s.motion.moving = false) (hq : s.motion.request = none) :
    Imposed s (inhibitController s) := by
  unfold inhibitController
  by_cases hf : s.health.motionFault = true
  · rw [if_pos hf]
    by_cases hi : s.motion.state = .inhibited
    · rw [if_pos hi]
      exact ⟨rfl, fun _ => rfl, .refl, rfl, rfl, by simp [Health.imposes, hf, hi], hm, id, rfl, fun _ => rfl, id⟩
    · rw [if_neg hi, hold_rest_eq hm, holdMotion_rest hm hq]
      refine ⟨?_, fun ha => ?_, ⟨rfl, rfl, rfl⟩, rfl, rfl, by simp [Health.imposes, hf], rfl, fun h => ?_, rfl,
        fun h => if_neg h, fun _ => rfl⟩
      · simp [handOver]
      · exact congrArg Place.position (anchored_place ha { s.motion with
          state := .inhibited, waiting := none, settling := false, settleTimer := 0, dwellTimer := 0 } rfl)
      · have seek : s.motion.seek = .none := congrArg Motion.seek h.symm
        simp [cancelRequest, hq, seek]
  · rw [if_neg hf]
    have state : (liftInhibit s.motion).state = s.health.imposes s.motion.state := by
      simp only [liftInhibit, Health.imposes, beq_iff_eq, if_neg hf]
      split <;> rfl
    have still : (liftInhibit s.motion).moving = false := by
      unfold liftInhibit
      split
      · rfl
      · exact hm
    refine ⟨rfl, fun _ => rfl, ?_, ?_, ?_, state, still, fun h => ?_, rfl, fun _ => rfl, id⟩
    · unfold liftInhibit; split <;> exact ⟨rfl, rfl, rfl⟩
    · unfold liftInhibit; split <;> rfl
    · unfold liftInhibit; split <;> rfl
    · show cancelRequest (liftInhibit s.motion) = liftInhibit s.motion
      unfold liftInhibit
      split
      · rw [← h]; rfl
      · exact h

/-- The conditions of the faults read the levels, the gate and the cartridge state only. -/
theorem conditions_congr {s t : State} (hi : t.inputs = s.inputs) (hg : t.framer.gate = s.framer.gate)
    (hc : t.place.cart = s.place.cart) : conditions t = conditions s := by
  unfold conditions
  rw [hi, hg, hc]

/-- R152: what a clear action keeps of the fault bits. -/
def Health.keeping (h : Health) (c : BitVec 6) : Health :=
  { h with present := h.present &&& (staticFaults ||| (latchedFaults &&& c))
           recorded := h.recorded &&& (h.present &&& (staticFaults ||| (latchedFaults &&& c))) }

/-- R147: the fault bits that a judgement of conditions leaves. -/
def Health.judged (h : Health) (c : BitVec 6) : Health :=
  { h with present := presentFor h c, recorded := h.recorded ||| presentFor h c }

theorem clearAction_eq (s : State) :
    clearAction s = inhibitController { s with health := s.health.keeping (conditions s) } := rfl

/-- R147, R152: a judgement and then a clear action, the transport at rest with nothing asked of it. -/
theorem clearJudged_imposed {s : State} (hm : s.motion.moving = false) (hq : s.motion.request = none) :
    Imposed { s with health := (s.health.judged (conditions s)).keeping (conditions s) }
      (clearAction (faultBits s)) := by
  rw [clearAction_eq]
  exact inhibitController_imposed hm hq

/-- R146: every fault is either static or latched. -/
theorem static_or_latched (i : Nat) (hi : i < 6) : staticFaults[i] = !latchedFaults[i] := by
  revert i; decide

theorem or_and_within (r p k : BitVec 6) : (r ||| p) &&& (p &&& k) = p &&& k := by
  ext i hi
  simp only [BitVec.getElem_and, BitVec.getElem_or]
  cases p[i] <;> simp

/-- R178: after a judgement and a clear action the faults present are the unmasked conditions, and those alone are
recorded. -/
theorem judged_keeping (h : Health) (c : BitVec 6) : (h.judged c).keeping c =
    { h with present := c &&& ~~~h.mask, recorded := (h.recorded ||| (c &&& ~~~h.mask)) &&& (c &&& ~~~h.mask) } := by
  have present : presentFor h c &&& (staticFaults ||| (latchedFaults &&& c)) = c &&& ~~~h.mask := by
    unfold presentFor
    ext i hi
    simp only [BitVec.getElem_and, BitVec.getElem_or, BitVec.getElem_not, static_or_latched i hi]
    generalize latchedFaults[i] = latched, (c)[i] = condition, h.mask[i] = masked, h.present[i] = before
    revert latched condition masked before
    decide
  have recorded : (h.recorded ||| presentFor h c) &&& (c &&& ~~~h.mask) =
      (h.recorded ||| (c &&& ~~~h.mask)) &&& (c &&& ~~~h.mask) := by
    have self (r k : BitVec 6) : (r ||| k) &&& k = k := by simpa using or_and_within r k k
    rw [self, ← present, or_and_within]
  simp only [Health.judged, Health.keeping, present, recorded]

/-! ### What every reset leaves (R19, R41, R73, R144) -/

/-- R19, R41, R73, R144: the Host Port, the order side, the banks and the Framer as every kind of reset leaves them, and a
transport at rest with nothing asked of it. -/
structure Fresh (s : State) : Prop where
  host : s.host = .afterReset
  seq : s.seq = .afterReset
  banks : s.banks = .afterReset
  framer : s.framer = .afterReset
  events : s.events = []
  still : s.motion.moving = false
  rested : cancelRequest s.motion = s.motion

theorem Fresh.request {s : State} (h : Fresh s) : s.motion.request = none := congrArg Motion.request h.rested.symm

/-- A change outside those blocks. -/
theorem Fresh.congr {s t : State} (h : Fresh s) (hh : t.host = s.host) (hs : t.seq = s.seq) (hb : t.banks = s.banks)
    (hf : t.framer = s.framer) (he : t.events = s.events) (hm : t.motion = s.motion) : Fresh t :=
  ⟨hh.trans h.host, hs.trans h.seq, hb.trans h.banks, hf.trans h.framer, he.trans h.events, hm ▸ h.still, hm ▸ h.rested⟩

theorem Imposed.fresh {s t : State} (h : Imposed s t) (hs : Fresh s) : Fresh t := by
  have e := h.eq
  exact ⟨(congrArg State.host e).trans hs.host, (congrArg State.seq e).trans hs.seq,
    (congrArg State.banks e).trans hs.banks, (congrArg State.framer e).trans hs.framer,
    (congrArg State.events e).trans hs.events, h.still, h.rested hs.rested⟩

/-- R19, R41, R144: the registers that a reset clears, one by one. -/
theorem Fresh.registers {t : State} (h : Fresh t) :
    (t.host.setupIndex = 0 ∧ t.host.shadow = [] ∧ t.host.snaps = [] ∧ t.host.dataError = false ∧
      t.host.setupError = false ∧ t.host.orderRejected = false ∧ t.host.paramOverflow = false ∧
      t.host.intEnable = 0 ∧ t.host.lastSetupError = 0) ∧
    (t.seq.staging = [] ∧ t.seq.queue = [] ∧ t.seq.active = none ∧ t.seq.haltPending = false ∧ t.seq.tag = 0) ∧
    (t.banks.a = Bank.cleared ∧ t.banks.b = Bank.cleared ∧ t.banks.lastClaim = none ∧ direction t = .none ∧
      hostBankRemaining t = 0 ∧ t.banks.repositions = 0 ∧ t.banks.retries = 0 ∧ t.framer.writer = .idle ∧
      t.framer.gate = false ∧ t.framer.capture = none) := by
  have direction_none : direction t = .none := by
    simp [direction, readBlocksActive, h.banks, h.seq, Sequencer.afterReset]; decide
  have target : fillTarget t = none := by
    have side : t.banks.fillSide = none := by rw [h.banks]; decide
    simp [fillTarget, side, fillOrders, h.seq, Sequencer.afterReset, fillSearch]
  have remaining : hostBankRemaining t = 0 := by
    have side : t.banks.fillSide = none := by rw [h.banks]; decide
    simp [hostBankRemaining, direction_none, side, target]
  rw [h.host, h.seq, h.banks, h.framer]
  exact ⟨⟨rfl, rfl, rfl, rfl, rfl, rfl, rfl, rfl, rfl⟩, ⟨rfl, rfl, rfl, rfl, rfl⟩,
    ⟨rfl, rfl, rfl, direction_none, remaining, rfl, rfl, rfl, rfl, rfl⟩⟩

end Sys2Proof.Machine
end

section
/-! SUPPORT. The wake and the resets (R55, R93, R117, R144, R153, R178 to R181): each one's state in terms of what a hold,
an inhibit and a sleep entry leave, and the statements about them. -/

namespace Sys2Proof.Machine

/-! ### A hold (R84) -/

/-- R84: what a hold of a moving transport leaves of the rest of the part. -/
structure Halted (s t : State) : Prop where
  health : t.health = s.health
  reports : t.reports = s.reports
  power : t.power = s.power
  place : t.place = { s.place with position := if s.motion.moving then none else s.place.position }
  tick : t.motion.tick = s.motion.tick
  lastDir : t.motion.lastDir = s.motion.lastDir
  refValid : t.motion.refValid = (s.motion.refValid && !s.motion.moving)
  rate : s.motion.moving = true → t.motion.rate = 0
  still : t.motion.moving = false

theorem hold_halted {s : State} (hm : s.motion.moving = true) : Halted s (hold false s) := by
  have still : (hold false s).motion.moving = false := hold_moving false s
  rw [hold, if_pos hm] at still ⊢
  have cut := cut_same (dropGate (handOver (holdMotion false s.motion) s))
  have motion : (cutCapture (dropGate (handOver (holdMotion false s.motion) s))).motion =
      (holdMotion false s.motion).motion := cut.motion
  refine ⟨cut.health, cut.reports, cut.power, cut.place.trans ?_, ?_, ?_, ?_, fun _ => ?_, still⟩
  · simp [handOver, holdMotion, hm]
  all_goals rw [motion]; simp [holdMotion, hm]

/-- R84: a transport that moves is held, one at rest left as it is. -/
theorem stilled_halted (s : State) : Halted s (if s.motion.moving then hold false s else s) := by
  by_cases hm : s.motion.moving = true
  · rw [if_pos hm]; exact hold_halted hm
  · rw [if_neg hm]
    exact ⟨rfl, rfl, rfl, by simp [hm], rfl, rfl, by simp [hm], fun h => absurd h hm, by simpa using hm⟩

/-! ### DEVICE RESET and the assertion of RST/ up to the cartridge (R41, R93, R180, R181) -/

/-- R180, R181: a transport that moves held, and the blocks cleared, with the controller's requests, counts and timers. -/
def resetStart (s : State) : State :=
  let s1 := clearOrderSide (cutLoad (resetHold s))
  { s1 with motion := resetMotion s1.motion, power := { s1.power with state := .active } }

theorem deviceResetActs_eq (s : State) : deviceResetActs s =
    let u := faultBits (resetCartridge (loadCartridgeLevels (resetStart s)))
    if u.health.supervisorOnly then inhibitController u else clearAction u := rfl

theorem cutLoad_place (s : State) : (cutLoad s).place =
    { s.place with cart := if s.place.cart = .loading then .inserted else s.place.cart } := by
  unfold cutLoad
  split <;> simp [*]

theorem cutLoad_eq (s : State) : cutLoad s = { s with place := (cutLoad s).place } := by
  unfold cutLoad
  split <;> rfl

/-- R176: nothing of a part whose cartridge is not LOADING. -/
theorem cutLoad_id {s : State} (h : s.place.cart ≠ .loading) : cutLoad s = s := if_neg h

/-- What a reset's start leaves. -/
structure Started (s t : State) : Prop where
  same : t.setup = s.setup ∧ t.link = s.link ∧ t.inputs = s.inputs
  health : t.health = s.health
  reports : t.reports = s.reports
  fresh : Fresh t
  place : t.place = { s.place with
    cart := if s.place.cart = .loading then .inserted else s.place.cart
    position := if s.motion.moving then none else s.place.position }
  tick : t.motion.tick = s.motion.tick
  lastDir : t.motion.lastDir = s.motion.lastDir
  refValid : t.motion.refValid = (s.motion.refValid && !s.motion.moving)
  overshoot : t.motion.lastOvershoot = 0
  rate : s.motion.moving = true → t.motion.rate = 0
  power : t.power.state = .active ∧ t.power.standbyTimer = 0

theorem cancelRequest_moving {m : Motion} (h : m.moving = false) : (cancelRequest m).moving = false := by
  unfold Motion.moving cancelRequest at *
  cases hs : m.state <;> simp_all

theorem cancelRequest_resetMotion (m : Motion) : cancelRequest (resetMotion m) = resetMotion m := by
  simp only [resetMotion, cancelRequest]
  split <;> simp_all

theorem resetStart_started (s : State) : Started s (resetStart s) := by
  have held := stilled_halted s
  have same := (resetHold_inner s).same.trans (cutLoad_inner _).same
  have motion : (cutLoad (resetHold s)).motion = (if s.motion.moving then hold false s else s).motion := by
    rw [cutLoad_eq]; rfl
  have health : (cutLoad (resetHold s)).health = s.health := by rw [cutLoad_eq]; exact held.health
  have reports : (cutLoad (resetHold s)).reports = s.reports := by rw [cutLoad_eq]; exact held.reports
  have place : (cutLoad (resetHold s)).place = { s.place with
      cart := if s.place.cart = .loading then .inserted else s.place.cart
      position := if s.motion.moving then none else s.place.position } := by
    have hp : (resetHold s).place = _ := held.place
    rw [cutLoad_place, hp]
  have fresh : Fresh (resetStart s) := by
    refine ⟨rfl, rfl, rfl, rfl, rfl, cancelRequest_moving (m := (cutLoad (resetHold s)).motion) ?_,
      cancelRequest_resetMotion _⟩
    rw [motion]; exact held.still
  refine ⟨⟨same.setup, same.link, same.inputs⟩, health, reports, fresh, place, ?_, ?_, ?_, rfl, ?_, rfl, rfl⟩
  · exact (congrArg Motion.tick motion).trans held.tick
  · exact (congrArg Motion.lastDir motion).trans held.lastDir
  · exact (congrArg Motion.refValid motion).trans held.refValid
  · exact fun h => (congrArg Motion.rate motion).trans (held.rate h)

/-! ### The cartridge at a reset (R117) -/

/-- R117: the cartridge state that a reset takes from the level of CARTIN. -/
def cartAfter (present : Bool) (cart : CartState) : CartState :=
  if present = false then .empty else if cart = .loaded then .loaded else .inserted

/-- R117: what a reset leaves after it has taken the cartridge levels and the cartridge state. -/
structure Reseated (s t : State) : Prop where
  inputs : t.inputs = (loadCartridgeLevels s).inputs
  eq : t = { s with motion := { s.motion with refValid := t.motion.refValid }, place := t.place, inputs := t.inputs }
  cart : t.place.cart = cartAfter s.inputs.cartin.pin s.place.cart
  latch : t.place.wpLatch = s.place.wpLatch
  kept : s.inputs.cartin.pin = true ∨ s.place.cart = .empty → t.place.map = s.place.map ∧
    t.place.position = s.place.position ∧ t.motion.refValid = s.motion.refValid
  lost : s.inputs.cartin.pin = false → s.place.cart ≠ .empty →
    t.place.map = [] ∧ t.place.position = none ∧ t.motion.refValid = false

theorem reset_reseated (s : State) : Reseated s (resetCartridge (loadCartridgeLevels s)) := by
  have level : (loadCartridgeLevels s).inputs.cartin.level = s.inputs.cartin.pin := rfl
  have cart : (loadCartridgeLevels s).place.cart = s.place.cart := rfl
  unfold resetCartridge
  rw [level, cart]
  cases hp : s.inputs.cartin.pin
  · by_cases hc : s.place.cart = .empty
    · rw [if_pos (by simp), if_pos hc]
      exact ⟨rfl, rfl, by simp [cartAfter, hp, hc, cart], rfl, fun _ => ⟨rfl, rfl, rfl⟩, fun _ h => absurd hc h⟩
    · rw [if_pos (by simp), if_neg hc]
      exact ⟨rfl, rfl, by simp [cartAfter, hp, loseCartridge], rfl, fun h => absurd h (by simp [hp, hc]),
        fun _ _ => ⟨rfl, rfl, rfl⟩⟩
  · by_cases hc : s.place.cart = .loaded
    · rw [if_neg (by simp), if_pos hc]
      exact ⟨rfl, rfl, by simp [cartAfter, hp, hc, cart], rfl, fun _ => ⟨rfl, rfl, rfl⟩, fun h => by simp [hp] at h⟩
    · rw [if_neg (by simp), if_neg hc]
      exact ⟨rfl, rfl, by simp [cartAfter, hp, hc], rfl, fun _ => ⟨rfl, rfl, rfl⟩, fun h => by simp [hp] at h⟩

theorem cartAfter_ne_loading (present : Bool) (cart : CartState) : cartAfter present cart ≠ .loading := by
  unfold cartAfter
  split
  · simp
  · split <;> simp

theorem Reseated.anchored {s t : State} (h : Reseated s t) (hs : Anchored s) : Anchored t := by
  by_cases hk : s.inputs.cartin.pin = true ∨ s.place.cart = .empty
  · obtain ⟨-, position, ref⟩ := h.kept hk
    intro known
    rw [ref]; exact hs (position ▸ known)
  · rw [not_or, Bool.not_eq_true] at hk
    intro known
    rw [(h.lost hk.1 hk.2).2.1] at known; cases known

/-! ### The sleep sources at the end of a reset (R180, R181) -/

/-- R177: what a sleep entry at the end of a reset leaves, or the part left awake. -/
structure Entered (s t : State) : Prop where
  eq : t = { s with motion := t.motion, power := t.power, framer := t.framer }
  motion : t.motion = s.motion ∨ t.motion = cancelRequest s.motion
  framer : t.framer = s.framer ∨ t.framer = { s.framer with fieldBytes := [] }
  portWait : t.power.portWait = s.power.portWait
  state : t.power.state = if s.inputs.slp.level = false ∨ s.link.sleepReq = true then .sleep else s.power.state

/-- R177: a sleep entry of a part without orders. -/
theorem enterSleep_afterReset {s : State} (hs : s.seq = .afterReset) (he : s.events = []) : enterSleep s = { s with
    motion := cancelRequest s.motion
    power := { s.power with state := .sleep, standbyTimer := 0, deadlineTimer := 0, lost := 0, lostActive := false } } := by
  simp [enterSleep, hs, he, Sequencer.afterReset]

/-- R180, R181: the sleep sources judged in a part at rest without orders. -/
theorem judgeSources_entered {s : State} (hs : s.seq = .afterReset) (he : s.events = [])
    (hw : s.framer.writer = .idle) (hg : s.framer.gate = false) (hm : s.motion.moving = false)
    (hc : s.place.cart ≠ .loading) : Entered s (judgeSources s) := by
  have pin : pinSource s = true ↔ s.inputs.slp.level = false := by simp [pinSource]
  unfold judgeSources
  by_cases hp : pinSource s = true
  · have forced : forcedSleep s = enterSleep (dropGate s) := by
      rw [forcedSleep, if_neg (by simp [hm]), cutLoad_id hc]
    have drop : (dropGate s).framer = { s.framer with fieldBytes := [] } := by simp [dropGate, hw, hg]
    rw [if_pos hp, forced, enterSleep_afterReset (s := dropGate s) hs he]
    exact ⟨rfl, .inr rfl, .inr drop, rfl, by simp [pin.1 hp]⟩
  · rw [if_neg hp]
    cases hl : s.link.sleepReq
    · rw [if_neg (by simp)]
      exact ⟨rfl, .inl rfl, .inl rfl, rfl, by simp [hl, mt pin.2 hp]⟩
    · rw [if_pos rfl, enterSleep_afterReset (s := enterPending s) hs he]
      exact ⟨rfl, .inr rfl, .inl rfl, rfl, by simp [hl]⟩

/-- R180, R181: a part that a reset has cleared stays so in a sleep entry. -/
theorem judgeSources_fresh {s : State} (h : Fresh s) (hc : s.place.cart ≠ .loading) :
    Entered s (judgeSources s) ∧ Fresh (judgeSources s) ∧ (judgeSources s).motion = s.motion := by
  have e := judgeSources_entered h.seq h.events (by rw [h.framer]; rfl) (by rw [h.framer]; rfl) h.still hc
  have motion : (judgeSources s).motion = s.motion := e.motion.elim id (·.trans h.rested)
  have framer : (judgeSources s).framer = s.framer := by
    rcases e.framer with k | k
    · exact k
    · rw [k, h.framer]; rfl
  exact ⟨e, h.congr (by rw [e.eq]) (by rw [e.eq]) (by rw [e.eq]) framer (by rw [e.eq]) motion, motion⟩

theorem Entered.kept {s t : State} (h : Entered s t) : Kept s.motion t.motion := by
  rcases h.motion with k | k <;> rw [k]
  · exact .refl
  · exact ⟨rfl, rfl, rfl⟩

/-- What a sleep entry leaves of what it does not concern. -/
theorem Entered.same {s t : State} (h : Entered s t) : t.setup = s.setup ∧ t.link = s.link ∧ t.health = s.health ∧
    t.inputs = s.inputs ∧ t.place = s.place ∧ t.reports = s.reports := by
  rw [h.eq]
  exact ⟨rfl, rfl, rfl, rfl, rfl, rfl⟩

theorem Entered.conditions {s t : State} (h : Entered s t) : conditions t = conditions s := by
  obtain ⟨-, -, -, inputs, place, -⟩ := h.same
  refine conditions_congr inputs ?_ (by rw [place])
  rcases h.framer with k | k <;> rw [k]

theorem Imposed.same {s t : State} (h : Imposed s t) : t.setup = s.setup ∧ t.link = s.link ∧ t.health = s.health ∧
    t.inputs = s.inputs ∧ t.framer = s.framer ∧ t.seq = s.seq ∧ t.events = s.events ∧ t.reports = s.reports := by
  rw [h.eq]
  exact ⟨rfl, rfl, rfl, rfl, rfl, rfl, rfl, rfl⟩

theorem Imposed.place {s t : State} (h : Imposed s t) : t.place.cart = s.place.cart ∧ t.place.wpLatch = s.place.wpLatch ∧
    t.place.map = s.place.map := by
  rw [h.eq]
  exact ⟨rfl, rfl, rfl⟩

theorem Imposed.conditions {s t : State} (h : Imposed s t) : conditions t = conditions s := by
  obtain ⟨-, -, -, inputs, framer, -⟩ := h.same
  exact conditions_congr inputs (by rw [framer]) h.place.1

theorem Imposed.portWait {s t : State} (h : Imposed s t) : t.power.portWait = s.power.portWait := by rw [h.power]

/-! ### The wake (R55, R93, R117, R178) -/

/-- R178 steps 1 to 4, before the faults are judged. -/
def wakeStart (s : State) : State :=
  let s1 := clearOrderSide (loadHealthLevels (loadCartridgeLevels s))
  { s1 with power := { s1.power with state := .active }, motion := wakeMotion s1.motion, place := wakePlace s1 }

theorem wakeChanges_eq (s : State) : wakeChanges s = clearAction (faultBits (wakeStart s)) := rfl

theorem wakeStart_fresh (s : State) : Fresh (wakeStart s) := ⟨rfl, rfl, rfl, rfl, rfl, rfl, rfl⟩

/-- What the changes of the wake leave. -/
structure Woken (s t : State) : Prop where
  fresh : Fresh t
  same : t.setup = s.setup ∧ t.link = s.link ∧ t.inputs = (loadHealthLevels (loadCartridgeLevels s)).inputs
  health : t.health = (s.health.judged (conditions t)).keeping (conditions t)
  kept : Kept (wakeMotion s.motion) t.motion
  rate : t.motion.rate = 0
  state : t.motion.state = t.health.imposes .stopped
  place : t.place.cart = (if s.inputs.cartin.pin then .inserted else .empty) ∧ t.place.wpLatch = false ∧
    t.place.position = none ∧ t.place.map = []
  power : t.power = { s.power with state := .active, standbyTimer := 0, deadlineTimer := 0 }

theorem wakeChanges_woken (s : State) : Woken s (wakeChanges s) := by
  have fresh := wakeStart_fresh s
  have imposed := clearJudged_imposed fresh.still fresh.request
  rw [← wakeChanges_eq] at imposed
  have cond : conditions (wakeChanges s) = conditions (wakeStart s) := imposed.conditions
  obtain ⟨setup, link, health, inputs, -⟩ := imposed.same
  obtain ⟨cart, latch, map⟩ := imposed.place
  have state : (wakeChanges s).power.state = .active := imposed.awake (by simp [wakeStart])
  have timer : (wakeChanges s).power.standbyTimer = 0 := imposed.timer rfl
  refine ⟨imposed.fresh (fresh.congr rfl rfl rfl rfl rfl rfl), ⟨setup, link, inputs⟩, by rw [cond]; exact health,
    imposed.kept, imposed.rate, by rw [health]; exact imposed.state, ⟨cart, latch, ?_, map⟩, ?_⟩
  · exact imposed.position fun h => by simp [wakeStart, wakePlace] at h
  · rw [imposed.power, state, timer]; rfl

/-- R171, R178: SLP/ becomes high in SLEEP with no request of the link. -/
theorem exec_wake {s : State} (hr : s.inputs.rstLow = false) (hp : s.power.state = .sleep)
    (hl : s.link.sleepReq = false) : exec .wake s = .next (wakeUp (setSlp true s)) := by
  show Host.Outcome.next (followSlp (setSlp true s)) = _
  rw [followSlp, if_neg (by simp [setSlp, hr]), if_neg (by simp [pinSource, setSlp, Sense.sampled]),
    if_pos (by simp [hp, hl])]

/-- R178: the wake is its changes, its report and the port's wait. -/
theorem wakeUp_eq (s : State) : ∃ r : Report, r.cause = .wake ∧ r.residual = BitVec.ofNat 16 s.power.lost ∧
    r.stage = (if s.power.lostActive then .reference else .startChecks) ∧
    wakeUp s = { wakeChanges s with
      reports := { (emptyReports (wakeChanges s)).reports with stored := [r], lastCause := r.cause, lastTag := r.tag }
      power := { (wakeChanges s).power with portWait := 2 } } := by
  have power := (wakeChanges_woken s).power
  refine ⟨wakeReport (emptyReports (wakeChanges s)), rfl, ?_, ?_, rfl⟩
  · show BitVec.ofNat 16 (wakeChanges s).power.lost = _
    rw [power]
  · show (if (wakeChanges s).power.lostActive then Stage.reference else .startChecks) = _
    rw [power]

end Sys2Proof.Machine

section

open Sys2Proof Sys2Proof.Machine

/-- Settles O57, from what the wake's changes leave. -/
theorem Sys2Proof.wakeUp : Obligations.WakeUp := by
  unfold Obligations.WakeUp
  intro s hr hp hl
  have woken := wakeChanges_woken (setSlp true s)
  obtain ⟨r, cause, lost, stage, eq⟩ := wakeUp_eq (setSlp true s)
  refine ⟨_, exec_wake hr hp hl, ?_⟩
  rw [eq]
  generalize wakeChanges (setSlp true s) = u at woken ⊢
  obtain ⟨cart, latch, position, map⟩ := woken.place
  obtain ⟨setup, link, inputs⟩ := woken.same
  have health : u.health = { s.health with
      present := conditions u &&& ~~~s.health.mask
      recorded := (s.health.recorded ||| u.health.present) &&& u.health.present } := by
    have h := woken.health
    rw [judged_keeping] at h
    rw [h]; rfl
  refine ⟨by rw [woken.power], rfl, ?_, woken.kept.tick, woken.kept.ref, woken.kept.last, woken.rate, ?_, fun hf => ?_,
    cart, latch, position, map, setup, link, health, r, rfl, cause, lost, stage⟩
  · simp [portActive]
  · show u.motion.state = _ ↔ _
    rw [woken.state, imposes_inhibited]
  · show u.motion.state = _
    have hf : u.health.motionFault = false := hf
    rw [woken.state, Health.imposes, hf]; rfl

end
end

section
/-! SUPPORT. What each kind of reset leaves (R19, R41, R117, R144, R153, R178 to R181), and the statement about them. -/

namespace Sys2Proof.Machine

/-! ### The power-on reset (R179) -/

theorem porState_fresh (pins : Pins) (s : State) : Fresh (porState pins s) := ⟨rfl, rfl, rfl, rfl, rfl, rfl, rfl⟩

/-- R179: with the link cleared the pin is the only sleep source. -/
theorem powerOnReset_eq (pins : Pins) (s : State) : powerOnReset pins s =
    judgeSources (resetReport .powerOn (inhibitController (faultBits (porState pins s)))) := by
  have link : (resetReport .powerOn (inhibitController (faultBits (porState pins s)))).link.sleepReq = false :=
    congrArg Link.sleepReq (inhibitController_same (faultBits (porState pins s))).link
  simp only [powerOnReset, judgeSources, link, Bool.false_eq_true, if_false]

theorem resetReport_fresh (c : Cause) {s : State} (h : Fresh s) : Fresh (resetReport c s) :=
  h.congr rfl rfl rfl rfl rfl rfl

/-- R179: what a power-on reset leaves. -/
theorem powerOnReset_leaves (pins : Pins) (s : State) : ∃ t, powerOnReset pins s = t ∧ Fresh t ∧
    t.setup = .defaults ∧ t.motion.tick = 0 ∧ t.motion.refValid = false ∧ t.motion.lastDir = none ∧
    t.place.position = none ∧ t.place.map = [] ∧ t.place.cart = (if pins.cartin then .inserted else .empty) ∧
    t.health.mask = 0 ∧ t.health.control = 0 ∧ t.health.powerOnFlag = true ∧ t.link = .afterPowerOn := by
  refine ⟨_, rfl, ?_⟩
  rw [powerOnReset_eq]
  have por : Fresh (faultBits (porState pins s)) := (porState_fresh pins s).congr rfl rfl rfl rfl rfl rfl
  have imposed := inhibitController_imposed por.still por.request
  generalize inhibitController (faultBits (porState pins s)) = u at imposed
  obtain ⟨setup, link, health, -⟩ := imposed.same
  obtain ⟨cart, -, map⟩ := imposed.place
  have position : u.place.position = none := imposed.position fun h => by simp [porState, State.reset] at h
  have fresh : Fresh (resetReport .powerOn u) := resetReport_fresh _ (imposed.fresh por)
  have loading : (resetReport .powerOn u).place.cart ≠ .loading := by
    show u.place.cart ≠ .loading
    rw [cart]
    simp only [faultBits_place, porState]
    split <;> simp
  obtain ⟨entered, fresh', motion⟩ := judgeSources_fresh fresh loading
  obtain ⟨setup', link', health', -, place', -⟩ := entered.same
  rw [setup', motion, place', health', link']
  exact ⟨fresh', setup, imposed.kept.tick, imposed.kept.ref, imposed.kept.last, position, map, cart,
    congrArg Health.mask health, congrArg Health.control health, congrArg Health.powerOnFlag health, link⟩

/-! ### DEVICE RESET (R40, R153, R181) -/

/-- R117: a LOADING cartridge counts as INSERTED at a reset. -/
theorem cartAfter_cutLoad (present : Bool) (cart : CartState) :
    cartAfter present (if cart = .loading then .inserted else cart) = cartAfter present cart := by
  cases cart <;> rfl

theorem Reseated.unknown {s t : State} (h : Reseated s t) (hp : s.place.position = none) :
    t.place.position = none := by
  by_cases hk : s.inputs.cartin.pin = true ∨ s.place.cart = .empty
  · exact (h.kept hk).2.1.trans hp
  · rw [not_or, Bool.not_eq_true] at hk
    exact (h.lost hk.1 hk.2).2.1

theorem Reseated.invalid {s t : State} (h : Reseated s t) (hr : s.motion.refValid = false) :
    t.motion.refValid = false := by
  by_cases hk : s.inputs.cartin.pin = true ∨ s.place.cart = .empty
  · exact (h.kept hk).2.2.trans hr
  · rw [not_or, Bool.not_eq_true] at hk
    exact (h.lost hk.1 hk.2).2.2

theorem Reseated.map {s t : State} (h : Reseated s t) :
    t.place.map = if s.inputs.cartin.pin = false ∧ s.place.cart ≠ .empty then [] else s.place.map := by
  split
  · rename_i hk; exact (h.lost hk.1 hk.2).1
  · rename_i hk
    refine (h.kept ?_).1
    by_cases hc : s.place.cart = .empty
    · exact .inr hc
    · left; simpa [hc] using hk

theorem Reseated.fresh {s t : State} (h : Reseated s t) (hs : Fresh s) : Fresh t := by
  rw [h.eq]
  refine ⟨hs.host, hs.seq, hs.banks, hs.framer, hs.events, hs.still, ?_⟩
  show ({ cancelRequest s.motion with refValid := t.motion.refValid } : Motion) = _
  rw [hs.rested]

theorem Reseated.same {s t : State} (h : Reseated s t) : t.setup = s.setup ∧ t.link = s.link ∧ t.health = s.health ∧
    t.power = s.power ∧ t.motion.tick = s.motion.tick ∧ t.motion.lastDir = s.motion.lastDir ∧
    t.motion.lastOvershoot = s.motion.lastOvershoot ∧ t.motion.rate = s.motion.rate := by
  rw [h.eq]
  exact ⟨rfl, rfl, rfl, rfl, rfl, rfl, rfl, rfl⟩

/-- R153, R181: the fault bits that a DEVICE RESET leaves under conditions `c`: without the clear action where CLEAR
AUTHORITY forbids it. -/
def Health.afterDeviceReset (h : Health) (c : BitVec 6) : Health :=
  if h.supervisorOnly then h.judged c else (h.judged c).keeping c

theorem afterDeviceReset_registers (h : Health) (c : BitVec 6) : (h.afterDeviceReset c).mask = h.mask ∧
    (h.afterDeviceReset c).control = h.control ∧ (h.afterDeviceReset c).powerOnFlag = h.powerOnFlag := by
  unfold Health.afterDeviceReset
  split <;> exact ⟨rfl, rfl, rfl⟩

theorem afterDeviceReset_bits (h : Health) (c : BitVec 6) :
    (h.afterDeviceReset c).present = (if h.supervisorOnly then presentFor h c
      else presentFor h c &&& (staticFaults ||| (latchedFaults &&& c))) ∧
    (h.afterDeviceReset c).recorded = (if h.supervisorOnly then h.recorded ||| presentFor h c
      else (h.recorded ||| presentFor h c) &&& (h.afterDeviceReset c).present) := by
  unfold Health.afterDeviceReset
  cases h.supervisorOnly <;> exact ⟨rfl, rfl⟩

/-- R181: a DEVICE RESET up to its report: the start, the cartridge, then the faults and what they impose. -/
theorem deviceResetActs_spec (s : State) : ∃ st r, Started s st ∧ Reseated st r ∧ Fresh r ∧
    Imposed { r with health := r.health.afterDeviceReset (conditions r) } (deviceResetActs s) := by
  have started := resetStart_started s
  have reseated := reset_reseated (resetStart s)
  have fresh := reseated.fresh started.fresh
  refine ⟨_, _, started, reseated, fresh, ?_⟩
  rw [deviceResetActs_eq]
  generalize resetCartridge (loadCartridgeLevels (resetStart s)) = r at fresh
  have authority : (faultBits r).health.supervisorOnly = r.health.supervisorOnly := rfl
  dsimp only
  rw [authority, Health.afterDeviceReset]
  cases r.health.supervisorOnly
  · exact clearJudged_imposed fresh.still fresh.request
  · exact inhibitController_imposed (s := faultBits r) fresh.still fresh.request

/-- What a DEVICE RESET leaves. -/
structure DeviceReset (s t : State) : Prop where
  fresh : Fresh t
  same : t.setup = s.setup ∧ t.link = s.link
  health : t.health = s.health.afterDeviceReset (conditions t)
  tick : t.motion.tick = s.motion.tick
  lastDir : t.motion.lastDir = s.motion.lastDir
  overshoot : t.motion.lastOvershoot = 0
  held : s.motion.moving = true → t.motion.rate = 0 ∧ t.motion.refValid = false ∧ t.place.position = none
  map : t.place.map = if s.inputs.cartin.pin = false ∧ s.place.cart ≠ .empty then [] else s.place.map
  cart : t.place.cart = cartAfter s.inputs.cartin.pin s.place.cart
  power : t.power.state = if s.inputs.slp.level = false ∨ s.link.sleepReq = true then .sleep else .active

theorem deviceReset_leaves (s : State) : DeviceReset s (deviceReset s) := by
  obtain ⟨st, r, started, reseated, fresh, imposed⟩ := deviceResetActs_spec s
  rw [deviceReset]
  generalize deviceResetActs s = u at imposed
  obtain ⟨inSetup, inLink, inInputs⟩ := started.same
  obtain ⟨rSetup, rLink, rHealth, rPower, rTick, rLast, rOver, rRate⟩ := reseated.same
  obtain ⟨uSetup, uLink, uHealth, uInputs, -⟩ := imposed.same
  obtain ⟨uCart, -, uMap⟩ := imposed.place
  have cart : u.place.cart = cartAfter s.inputs.cartin.pin s.place.cart := by
    rw [← cartAfter_cutLoad, uCart]
    refine reseated.cart.trans ?_
    rw [inInputs, started.place]
  have fresh' : Fresh (resetReport .deviceReset u) :=
    resetReport_fresh _ (imposed.fresh (fresh.congr rfl rfl rfl rfl rfl rfl))
  have loading : (resetReport .deviceReset u).place.cart ≠ .loading := by
    show u.place.cart ≠ .loading
    rw [cart]; exact cartAfter_ne_loading _ _
  obtain ⟨entered, fresh'', motion⟩ := judgeSources_fresh fresh' loading
  obtain ⟨setup', link', health', -, place', -⟩ := entered.same
  have cond : conditions (judgeSources (resetReport .deviceReset u)) = conditions r :=
    entered.conditions.trans (imposed.conditions (s := { r with health := _ }))
  refine ⟨fresh'', ⟨?_, ?_⟩, ?_, ?_, ?_, ?_, fun hm => ⟨?_, ?_, ?_⟩, ?_, ?_, ?_⟩
  · exact setup'.trans (uSetup.trans (rSetup.trans inSetup))
  · exact link'.trans (uLink.trans (rLink.trans inLink))
  · rw [cond, health', ← started.health, ← rHealth]; exact uHealth
  · rw [motion]; exact imposed.kept.tick.trans (rTick.trans started.tick)
  · rw [motion]; exact imposed.kept.last.trans (rLast.trans started.lastDir)
  · rw [motion]; exact imposed.overshoot.trans (rOver.trans started.overshoot)
  · rw [motion]; exact imposed.rate.trans (rRate.trans (started.rate hm))
  · rw [motion]
    exact imposed.kept.ref.trans (reseated.invalid (by rw [started.refValid, hm, Bool.not_true, Bool.and_false]))
  · have unknown : r.place.position = none := reseated.unknown (by rw [started.place]; simp [hm])
    rw [place']
    exact (imposed.position fun h => by simp [unknown] at h).trans unknown
  · rw [place']
    refine uMap.trans (reseated.map.trans ?_)
    rw [inInputs, started.place]
    cases s.place.cart <;> simp
  · rw [place']; exact cart
  · have slp : u.inputs.slp = s.inputs.slp := by
      have h : r.inputs.slp = s.inputs.slp := by rw [reseated.inputs, loadCartridgeLevels, inInputs]
      exact (congrArg Inputs.slp uInputs).trans h
    have req : u.link.sleepReq = s.link.sleepReq := congrArg Link.sleepReq (uLink.trans (rLink.trans inLink))
    have awake : u.power.state = .active := by
      have h : r.power.state = .active := by rw [rPower]; exact started.power.1
      exact (imposed.awake (by simp [h])).trans h
    refine entered.state.trans ?_
    show (if u.inputs.slp.level = false ∨ u.link.sleepReq = true then PowerState.sleep else u.power.state) = _
    rw [slp, req, awake]

theorem exec_deviceReset {s : State} (h : portActive s = true) : exec .deviceReset s = .next (deviceReset s) :=
  congrArg Host.Outcome.next (csWrite_active deviceReset h)

/-! ### RST/ (R117, R153, R180; log 25) -/

theorem exec_rstAssertion {s : State} (h : s.inputs.rstLow = false) : exec .rstAssertion s = .next (assertRst s) :=
  if_neg (by simp [h])

theorem exec_rstRelease {s : State} (h : s.inputs.rstLow = true) : exec .rstRelease s = .next (releaseRst s) := if_pos h

/-- R180: what stays of an assertion of RST/: the start of a reset, the setup's defaults. -/
theorem assertRst_fresh (s : State) : Fresh (assertRst s) :=
  (resetStart_started s).fresh.congr rfl rfl rfl rfl rfl rfl

/-- What the part is as the release of RST/ comes to its report. -/
structure Released (s t : State) : Prop where
  rest : t.seq = .afterReset ∧ t.events = [] ∧ t.framer.writer = .idle ∧ t.framer.gate = false ∧
    t.motion.moving = false ∧ t.place.cart ≠ .loading ∧ t.power.state = .active
  same : t.setup = s.setup ∧ t.link = s.link ∧ t.inputs.rstLow = false ∧ t.inputs.slp = s.inputs.slp
  health : t.health = (s.health.judged (conditions t)).keeping (conditions t)
  tick : t.motion.tick = s.motion.tick

/-- R117, R153, R180: the release in a part that was awake at the assertion. -/
structure ReleasedAwake (s t : State) : Prop extends Released s t where
  cart : t.place.cart = cartAfter s.inputs.cartin.pin s.place.cart
  latch : t.place.wpLatch = s.place.wpLatch
  portWait : t.power.portWait = s.power.portWait
  kept : s.inputs.cartin.pin = true ∨ s.place.cart = .empty → t.place.map = s.place.map ∧
    t.place.position = s.place.position ∧ t.motion.refValid = s.motion.refValid
  lost : s.inputs.cartin.pin = false → s.place.cart ≠ .empty →
    t.place.map = [] ∧ t.place.position = none ∧ t.motion.refValid = false

theorem releaseAwake_released {s : State} (ha : Anchored s)
    (hh : HeldInReset { s with inputs := { s.inputs with rstLow := true } })
    (hr : s.inputs.rstLow = false) : ReleasedAwake s (releaseAwake s) := by
  obtain ⟨seq, -, -, awake, events, ⟨writer, gate, -⟩, rest, request, -⟩ := hh rfl
  have still : s.motion.moving = false := by
    rcases rest with h | h <;> (unfold Motion.moving; rw [show s.motion.state = _ from h])
  have reseated := reset_reseated s
  unfold releaseAwake
  generalize resetCartridge (loadCartridgeLevels s) = r at reseated
  have anchored := reseated.anchored ha
  obtain ⟨rSetup, rLink, rHealth, rPower, rTick, -⟩ := reseated.same
  have rMotion : r.motion = { s.motion with refValid := r.motion.refValid } := by rw [reseated.eq]
  have imposed := clearJudged_imposed (s := r) (by rw [rMotion]; exact still) (by rw [rMotion]; exact request)
  obtain ⟨setup, link, health, inputs, framer, seq', events', -⟩ := imposed.same
  obtain ⟨cart, latch, map⟩ := imposed.place
  have rRest : r.seq = s.seq ∧ r.events = s.events ∧ r.framer = s.framer := by
    rw [reseated.eq]; exact ⟨rfl, rfl, rfl⟩
  obtain ⟨rSeq, rEvents, rFramer⟩ := rRest
  have cond : conditions (clearAction (faultBits r)) = conditions r := imposed.conditions
  have position : (clearAction (faultBits r)).place.position = r.place.position := imposed.position anchored
  generalize clearAction (faultBits r) = t at *
  have seated : t.place.cart = cartAfter s.inputs.cartin.pin s.place.cart := cart.trans reseated.cart
  have tInputs : t.inputs = (loadCartridgeLevels s).inputs := inputs.trans reseated.inputs
  refine ⟨⟨⟨seq'.trans (rSeq.trans seq), events'.trans (rEvents.trans events), ?_, ?_, imposed.still, ?_, ?_⟩,
    ⟨setup.trans rSetup, link.trans rLink, by rw [tInputs]; exact hr, by rw [tInputs]; rfl⟩, ?_,
    imposed.kept.tick.trans rTick⟩, seated, latch.trans reseated.latch, ?_, fun h => ?_, fun h h' => ?_⟩
  · rw [framer]; exact (congrArg Framer.writer rFramer).trans writer
  · rw [framer]; exact (congrArg Framer.gate rFramer).trans gate
  · rw [seated]; exact cartAfter_ne_loading _ _
  · have h : r.power.state = .active := (congrArg Power.state rPower).trans awake
    exact (imposed.awake (by simp [h])).trans h
  · rw [cond, ← rHealth]; exact health
  · exact imposed.portWait.trans (congrArg Power.portWait rPower)
  · obtain ⟨hm, hp, hv⟩ := reseated.kept h
    exact ⟨map.trans hm, position.trans hp, imposed.kept.ref.trans hv⟩
  · obtain ⟨hm, hp, hv⟩ := reseated.lost h h'
    exact ⟨map.trans hm, position.trans hp, imposed.kept.ref.trans hv⟩

/-- R180: the release in a part that slept at the assertion: the changes of the wake. -/
structure ReleasedAsleep (s t : State) : Prop extends Released s t where
  place : t.place.cart = (if s.inputs.cartin.pin then .inserted else .empty) ∧ t.place.wpLatch = false ∧
    t.place.position = none ∧ t.place.map = []
  ref : t.motion.refValid = false
  lastDir : t.motion.lastDir = none
  portWait : t.power.portWait = 2

theorem releaseFromSleep_released {s : State} (hr : s.inputs.rstLow = false) :
    ReleasedAsleep s (releaseFromSleep s) := by
  have woken := wakeChanges_woken s
  unfold releaseFromSleep
  generalize wakeChanges s = u at woken
  have loading : u.place.cart ≠ .loading := by
    rw [woken.place.1]; split <;> simp
  obtain ⟨setup, link, inputs⟩ := woken.same
  exact ⟨⟨⟨woken.fresh.seq, woken.fresh.events, congrArg Framer.writer woken.fresh.framer,
    congrArg Framer.gate woken.fresh.framer, woken.fresh.still, loading, congrArg Power.state woken.power⟩,
    ⟨setup, link, (congrArg Inputs.rstLow inputs).trans hr, (congrArg Inputs.slp inputs :)⟩, woken.health,
      woken.kept.tick⟩,
    woken.place, woken.kept.ref, woken.kept.last, rfl⟩

/-- What a release of RST/ leaves, in a part that was awake at the assertion and in one that slept. -/
structure Freed (s t : State) : Prop where
  same : t.inputs.rstLow = false ∧ t.setup = s.setup ∧ t.link = s.link ∧ t.health.mask = s.health.mask ∧
    t.health.control = s.health.control ∧ t.motion.tick = s.motion.tick
  present : t.health.present = presentFor s.health (conditions t) &&& (staticFaults ||| (latchedFaults &&& conditions t))
  recorded : t.health.recorded = (s.health.recorded ||| presentFor s.health (conditions t)) &&& t.health.present
  power : t.power.state = if s.inputs.slp.level = false ∨ s.link.sleepReq = true then .sleep else .active

/-- R180, R181: the report and the sleep sources that end a release. -/
def endRelease (u : State) : State :=
  judgeSources (resetReport .pinReset { u with power := { u.power with rstFromSleep := false } })

theorem releaseRst_eq (s : State) : releaseRst s = endRelease (if s.power.rstFromSleep
    then releaseFromSleep { s with inputs := { s.inputs with rstLow := false } }
    else releaseAwake { s with inputs := { s.inputs with rstLow := false } }) := rfl

theorem Released.freed {s u : State} (h : Released s u) : Freed s (endRelease u) ∧ (endRelease u).place = u.place ∧
    Kept u.motion (endRelease u).motion ∧ (endRelease u).power.portWait = u.power.portWait := by
  obtain ⟨seq, events, writer, gate, still, loading, active⟩ := h.rest
  have entered : Entered _ (endRelease u) := judgeSources_entered seq events writer gate still loading
  have cond : conditions (endRelease u) = conditions u := entered.conditions
  have state := entered.state
  obtain ⟨setup, link, health, inputs, place, -⟩ := entered.same
  have kept : Kept u.motion (endRelease u).motion := entered.kept
  have portWait : (endRelease u).power.portWait = u.power.portWait := entered.portWait
  generalize endRelease u = t at *
  obtain ⟨uSetup, uLink, uLow, uSlp⟩ := h.same
  have bits : t.health = (s.health.judged (conditions t)).keeping (conditions t) := by
    rw [cond, ← h.health]; exact health
  refine ⟨⟨⟨(congrArg Inputs.rstLow inputs).trans uLow, setup.trans uSetup, link.trans uLink,
    by rw [bits]; rfl, by rw [bits]; rfl, kept.tick.trans h.tick⟩, congrArg Health.present bits, ?_, ?_⟩,
    place, kept, portWait⟩
  · rw [congrArg Health.present bits]; exact congrArg Health.recorded bits
  · refine state.trans ?_
    show (if u.inputs.slp.level = false ∨ u.link.sleepReq = true then PowerState.sleep else u.power.state) = _
    rw [uSlp, uLink, active]

end Sys2Proof.Machine

section

open Sys2Proof Sys2Proof.Machine

/-- Settles O58: each reset by what it leaves, and the release by whether the part slept at the assertion. -/
theorem Sys2Proof.afterEveryReset : Obligations.AfterEveryReset := by
  unfold Obligations.AfterEveryReset
  refine ⟨fun i s hi => ?_, fun s sound held low => ?_⟩
  · rcases hi with ⟨pins, rfl⟩ | ⟨rfl, hp⟩ | ⟨rfl, hr⟩ | ⟨rfl, hr, hs, hl⟩
    · obtain ⟨t, ht, fresh, setup, facts⟩ := powerOnReset_leaves pins s
      obtain ⟨host, seq, banks⟩ := fresh.registers
      refine ⟨t, congrArg _ ht, host, seq, banks, setup, fun pins' h => ?_, nofun, nofun, nofun, nofun⟩
      injection h with h
      exact h ▸ facts
    · have reset := deviceReset_leaves s
      obtain ⟨host, seq, banks⟩ := reset.fresh.registers
      obtain ⟨mask, control, flag⟩ := afterDeviceReset_registers s.health (conditions (deviceReset s))
      refine ⟨_, exec_deviceReset hp, host, seq, banks, reset.same.1, nofun, fun _ => ?_, fun _ => ?_,
        nofun, nofun⟩
      · rw [reset.health]
        exact ⟨mask, control, flag, reset.same.2, reset.tick, reset.lastDir, reset.overshoot, reset.fresh.still,
          reset.held⟩
      · refine ⟨reset.map, reset.cart, fun present hpresent => ?_, reset.power⟩
        rw [hpresent, reset.health]
        exact afterDeviceReset_bits _ _
    · have started := resetStart_started s
      obtain ⟨host, seq, banks⟩ := (assertRst_fresh s).registers
      refine ⟨_, exec_rstAssertion hr, host, seq, banks, rfl, nofun, fun _ => ?_, nofun, nofun, fun _ => ?_⟩
      · refine ⟨congrArg Health.mask started.health, congrArg Health.control started.health,
          congrArg Health.powerOnFlag started.health, started.same.2.1, started.tick, started.lastDir,
          started.overshoot, started.fresh.still, fun hm => ⟨started.rate hm, ?_, ?_⟩⟩
        · exact started.refValid.trans (by simp [hm])
        · exact (congrArg Place.position started.place).trans (if_pos hm)
      · exact ⟨rfl, started.reports, (congrArg Place.map started.place :), rfl, (portActive_false _).2 (.inl rfl),
          started.refValid⟩
    · have woken := wakeChanges_woken (setSlp true s)
      obtain ⟨r, -, -, -, eq⟩ := wakeUp_eq (setSlp true s)
      refine ⟨_, exec_wake hr hs hl, ?_⟩
      rw [eq]
      generalize wakeChanges (setSlp true s) = u at woken ⊢
      obtain ⟨host, seq, banks⟩ := woken.fresh.registers
      obtain ⟨setup, link, -⟩ := woken.same
      obtain ⟨-, -, position, map⟩ := woken.place
      refine ⟨host, seq, banks, setup, nofun, nofun, nofun, fun _ => ?_, nofun⟩
      exact ⟨(congrArg Health.mask woken.health :), (congrArg Health.control woken.health :),
        (congrArg Health.powerOnFlag woken.health :), link, woken.kept.tick, woken.kept.ref, position,
        map, congrArg Power.state woken.power⟩
  · refine ⟨_, exec_rstRelease low, ?_⟩
    rw [releaseRst_eq]
    cases asleep : s.power.rstFromSleep
    · have back : { s with inputs := { s.inputs with rstLow := true } } = s := by rw [← low]
      have released := releaseAwake_released (s := { s with inputs := { s.inputs with rstLow := false } })
        sound.anchored (back.symm ▸ held) rfl
      rw [if_neg (by simp)]
      obtain ⟨freed, place, kept, portWait⟩ := released.freed
      obtain ⟨rst, setup, link, mask, control, tick⟩ := freed.same
      refine ⟨rst, setup, link, mask, control, tick, fun p hp => hp ▸ ⟨freed.present, freed.recorded⟩, freed.power,
        fun _ => ?_, nofun⟩
      rw [place, portWait, kept.ref]
      exact ⟨released.cart, released.latch, released.portWait, released.kept, released.lost⟩
    · have released := releaseFromSleep_released (s := { s with inputs := { s.inputs with rstLow := false } }) rfl
      rw [if_pos rfl]
      obtain ⟨freed, place, kept, portWait⟩ := released.freed
      obtain ⟨rst, setup, link, mask, control, tick⟩ := freed.same
      refine ⟨rst, setup, link, mask, control, tick, fun p hp => hp ▸ ⟨freed.present, freed.recorded⟩, freed.power,
        nofun, fun _ => ?_⟩
      obtain ⟨cart, latch, position, map⟩ := released.place
      rw [place, portWait, kept.ref, kept.last]
      exact ⟨cart, latch, map, position, released.ref, released.lastDir, released.portWait⟩

end
end

section
/-! SUPPORT. One millisecond of an empty queue (log 4): the samples (R94, R145, R171), the waits (R77, R82) and the timers
(R5, R173, R175), and the statement about them. -/

namespace Sys2Proof.Machine

/-- Log 4: on an empty queue one millisecond passes. -/
theorem step_idle {s : State} (h : s.pending = []) : step s = .next (msTick s) := by rw [step, h]

/-! ### The samples -/

theorem sample_eq (x : Sense) (v : Bool) :
    x.sample v = { x with last := v, level := if v = x.last then v else x.level } := by
  obtain ⟨pin, last, level⟩ := x
  cases v <;> cases last <;> cases level <;> rfl

/-- R171: the level of SLP/ stands at this sample. -/
def SlpStands (s : State) : Prop := s.inputs.slp.pin ≠ s.inputs.slp.last ∨ s.inputs.slp.pin = s.inputs.slp.level

/-- R94: a sample at the level that stands leaves a debounced input. -/
theorem sample_sampled {x : Sense} (h : x = .sampled x.pin) : x.sample x.pin = x := by
  rw [sample_eq, h]
  simp [Sense.sampled]

theorem sample_high {x : Sense} (h : x.last = true ∧ x.level = true) : x.sample true = x := by
  obtain ⟨pin, last, level⟩ := x
  obtain ⟨rfl, rfl⟩ := h
  rfl

/-- R94, R145: samples at the levels that stand change no input. -/
theorem sampleInputs_settled {s : State} (h : Settled s.inputs) (hg : s.framer.gate = false) : sampleInputs s = s := by
  obtain ⟨cartin, wprot, drvflt, wrflt, tensok, tempw, supok, -⟩ := h
  simp only [sampleInputs, hg, Bool.not_false, Bool.or_true, sample_sampled cartin, sample_sampled wprot,
    sample_sampled drvflt, sample_high wrflt, sample_sampled tensok, sample_sampled tempw, sample_sampled supok]

theorem Settled.slpStands {s : State} (h : Settled s.inputs) : SlpStands s := by
  obtain ⟨-, -, -, -, -, -, -, slp⟩ := h
  exact .inr (congrArg Sense.level slp).symm

/-- R171: SLP/ sampled. -/
def sampleSlp (s : State) : State := { s with inputs := { s.inputs with slp := s.inputs.slp.sample s.inputs.slp.pin } }

theorem sampleSlp_settled {s : State} (h : Settled s.inputs) : sampleSlp s = s := by
  obtain ⟨-, -, -, -, -, -, -, slp⟩ := h
  simp only [sampleSlp, sample_sampled slp]

/-- R171: a millisecond in which the level of SLP/ stands. -/
theorem msTick_stands {s : State} (h : SlpStands s) :
    msTick s = if s.power.state = .sleep then sampleSlp s else awakeTick (sampleSlp s) := by
  have level : (s.inputs.slp.sample s.inputs.slp.pin).level = s.inputs.slp.level := by
    rw [sample_eq]
    rcases h with h | h <;> simp [h]
  simp only [msTick, level, beq_self_eq_true, if_true, or_self]
  rfl

/-- R171: a millisecond in which the level of SLP/ comes to its pin. -/
theorem msTick_follows {s : State} (h : ¬ SlpStands s) :
    msTick s = let t := followSlp (setSlp s.inputs.slp.pin s)
      if s.power.state = .sleep ∨ t.power.state = .sleep then t else awakeTick t := by
  obtain ⟨last, level⟩ := not_or.1 h
  have last : s.inputs.slp.pin = s.inputs.slp.last := Classical.not_not.1 last
  have taken : s.inputs.slp.sample s.inputs.slp.pin = .sampled s.inputs.slp.pin := by
    rw [sample_eq, if_pos last]; rfl
  have changed : (Sense.sampled s.inputs.slp.pin).level ≠ s.inputs.slp.level := level
  simp only [msTick, taken, beq_iff_eq, if_neg changed]
  rfl

/-- R171, R176: SLP/ becomes low, RST/ being high: the part is asleep then. -/
theorem followSlp_low {s : State} (h : s.inputs.rstLow = false) : (followSlp (setSlp false s)).power.state = .sleep := by
  rw [followSlp, if_neg (by simp [setSlp, h]), if_pos (by simp [pinSource, setSlp, Sense.sampled])]
  split
  · assumption
  · rfl

/-! ### A judgement with nothing to judge (R147 to R151) -/

/-- R149, R151: the controller knows of the faults already. -/
theorem inhibitController_known {s : State} (h : InhibitHolds s) : inhibitController s = s := by
  unfold inhibitController
  split
  · rename_i hf; rw [if_pos (h.2 hf)]
  · rename_i hf
    simp [liftInhibit, mt h.1 hf]

theorem applyInhibits_known {s : State} (h : InhibitHolds s) (hg : s.framer.gate = false) : applyInhibits s = s := by
  have known : ¬ (s.health.motionFault && s.motion.state != .inhibited) = true := by
    rw [Bool.and_eq_true, bne_iff_ne]
    exact fun k => k.2 (h.2 k.1)
  simp only [applyInhibits, if_neg known, inhibitController_known h, hg, Bool.and_false, Bool.false_eq_true, if_false]

theorem and_not_eq_zero_or {p r : BitVec 6} (h : p &&& ~~~r = 0#6) : r ||| p = r := by
  ext i hi
  have hb : (p &&& ~~~r)[i] = (0#6)[i] := by rw [h]
  simp only [BitVec.getElem_and, BitVec.getElem_not, BitVec.getElem_zero] at hb
  simp only [BitVec.getElem_or]
  cases hp : p[i] <;> cases hr : r[i] <;> simp_all

/-- R147: the bits stay where no condition moves one. -/
theorem faultBits_judged {s : State} (hf : FaultsRecorded s.health)
    (hp : presentFor s.health (conditions s) = s.health.present) : faultBits s = s := by
  simp only [faultBits, hp, and_not_eq_zero_or hf.2]

theorem judge_known {s : State} (hs : Sound s) (hp : presentFor s.health (conditions s) = s.health.present)
    (hg : s.framer.gate = false) : judge s = s := by
  unfold judge judgeAfter
  simp only [faultBits_judged hs.faults hp, applyInhibits_known hs.inhibit hg, id, BitVec.and_not_self]
  split
  · rfl
  · simp [onsetReports]

/-! ### The timers of an active order (R77, R82, R173, R175) -/

theorem standbyCondition_active {s : State} (h : s.seq.active.isSome = true) : standbyCondition s = false := by
  simp [standbyCondition, busy, h]

theorem standbyCondition_off {s : State} (h : s.setup.standbyDelay = 0) : standbyCondition s = false := by
  simp [standbyCondition, h]

/-- R173: the standby timer stands at 0 outside the standby condition. -/
theorem tickStandby_off {s : State} (h : standbyCondition s = false) :
    tickStandby s = { s with power := { s.power with standbyTimer := 0 } } := if_neg (by simp [h])

theorem tickPort_open {s : State} (h : s.power.portWait = 0) : tickPort s = s := by
  have still : s.power.portWait - 1 = s.power.portWait := by rw [h]
  simp only [tickPort, still]

theorem tickDeadline_off {s : State} (h : s.power.state ≠ .sleepPending) : tickDeadline s = s := if_neg fun k => h k.1

/-- R175: the deadline timer counts, RST/ being high. -/
theorem tickDeadline_counts {s : State} (hr : s.inputs.rstLow = false)
    (h : s.power.state = .sleepPending → s.power.deadlineTimer + 1 < s.setup.sleepDeadline.toNat * 100) :
    tickDeadline s = { s with power := { s.power with deadlineTimer :=
      if s.power.state = .sleepPending then s.power.deadlineTimer + 1 else s.power.deadlineTimer } } := by
  by_cases hp : s.power.state = .sleepPending
  · have early : ¬ deadlineMs s ≤ s.power.deadlineTimer + 1 := Nat.not_le.2 (h hp)
    rw [tickDeadline, if_pos (by simp [hp, hr]), if_neg early, if_pos hp]
  · rw [tickDeadline_off hp, if_neg hp]

theorem tickDeadline_due {s : State} (hp : s.power.state = .sleepPending) (hr : s.inputs.rstLow = false)
    (h : s.setup.sleepDeadline.toNat * 100 ≤ s.power.deadlineTimer + 1) : tickDeadline s = forcedSleep s := by
  rw [tickDeadline, if_pos (by simp [hp, hr])]
  exact if_pos h

/-- R77, R82: a millisecond that ends no wait. -/
theorem tickWaits_counts {s : State} (hd : s.motion.state = .dwell → 1 < s.motion.dwellTimer)
    (hw : s.motion.state ≠ .dwell → s.motion.settling = true → 1 < s.motion.settleTimer) :
    tickWaits s = { s with motion :=
      if s.motion.state = .dwell then { s.motion with dwellTimer := s.motion.dwellTimer - 1 }
      else if s.motion.settling then { s.motion with settleTimer := s.motion.settleTimer - 1 } else s.motion } := by
  unfold tickWaits
  by_cases h : s.motion.state = .dwell
  · simp only [if_pos h, if_neg (Nat.not_le.2 (hd h))]
  · by_cases k : s.motion.settling = true
    · simp only [if_neg h, if_pos k, if_neg (Nat.not_le.2 (hw h k))]
    · simp only [if_neg h, if_neg k]

/-- R77, R82: a millisecond that ends a dwell or a settle wait. -/
theorem tickWaits_expires {s : State} (h : (s.motion.state = .dwell ∧ s.motion.dwellTimer ≤ 1) ∨
    (s.motion.state = .stopped ∧ s.motion.settling = true ∧ s.motion.settleTimer ≤ 1)) : tickWaits s = waitExpired s := by
  unfold tickWaits
  rcases h with ⟨hd, ht⟩ | ⟨hs, hw, ht⟩
  · rw [if_pos hd, if_pos ht]
  · rw [if_neg (by simp [hs]), if_pos hw, if_pos ht]

theorem tickTimers_awake {s : State} (hr : s.inputs.rstLow = false) (hp : s.power.state ≠ .sleep) :
    tickTimers s = tickStandby (tickWaits (tickPort s)) := if_neg (by simp [hr, hp])

/-! ### The millisecond of an order that waits (R74) -/

/-- Nothing is due in a part with an order that waits for no bank and at no reposition's end. -/
theorem settle_waiting {s : State} {a : Active} (ha : s.seq.active = some a) (he : s.events = [])
    (hph : a.phase ≠ .waitBank ∧ a.phase ≠ .repWait) : settle s = s := by
  refine settle_none ?_
  have head : headReady s = false := by
    unfold headReady
    split <;> simp [ha]
  simp [settleStep, he, deferredDue, ha, head, resumeDue, writeWaitDue, hph.1, hph.2]

theorem tickInputs_waiting {s : State} {a : Active} (hs : Sound s) (h : Waiting s a) : tickInputs s = s := by
  obtain ⟨levels, gate⟩ := h.levels
  rw [tickInputs, sampleInputs_settled levels gate, reactTo, if_pos (by simp), judge_known hs h.judged gate,
    settle_waiting h.active h.events h.phase]

/-- The deadline timer does not concern an order that waits. -/
theorem Waiting.setPower {s : State} {a : Active} (h : Waiting s a) (p : Power) (hp : p.state = s.power.state) :
    Waiting { s with power := p } a :=
  ⟨h.active, h.events, ⟨fun k => h.awake.1 (hp.symm.trans k), h.awake.2⟩, h.phase, h.levels, h.judged⟩

theorem msTick_waiting {s : State} {a : Active} (h : Waiting s a) : msTick s = awakeTick s := by
  rw [msTick_stands h.levels.1.slpStands, if_neg h.awake.1, sampleSlp_settled h.levels.1]

/-! ### The millisecond of an idle part -/

/-- An idle part that is awake, at rest and free of RST/; of its controller at most a rest is to be told that a hold
brought. -/
structure Dormant (s : State) : Prop where
  idle : s.seq.active = none ∧ s.seq.queue = []
  power : s.power.state = .active ∧ s.power.portWait = 0
  free : s.inputs.rstLow = false
  gate : s.framer.gate = false
  rest : (s.motion.state = .stopped ∨ s.motion.state = .inhibited) ∧ s.motion.settling = false
  events : s.events = [] ∨ ∃ t o, s.events = [.stoppedAt t o true]

theorem Ready.dormant {s : State} (h : Ready s) : Dormant s := by
  have port := h.port
  simp only [portActive, Bool.and_eq_true, Bool.not_eq_true', bne_iff_ne, beq_iff_eq] at port
  exact ⟨⟨h.idle.1, h.idle.2.1⟩, ⟨h.awake, port.2⟩, port.1.1, h.framer.2.1, ⟨.inl h.rest.1, h.rest.2⟩, .inl h.events⟩

theorem Dormant.still {s : State} (h : Dormant s) : s.motion.moving = false := by
  rcases h.rest.1 with k | k <;> simp [Motion.moving, k]

/-- R84, R92: the rest that a hold brought has no order to end. -/
theorem settle_dormant {s : State} (h : Dormant s) : settle s = { s with events := [] } := by
  have steady : Steady { s with events := [] } :=
    ⟨rfl, by simp [h.power.1], by simp [h.idle.1, h.idle.2]⟩
  rcases h.events with he | ⟨t, o, he⟩
  · have same : { s with events := [] } = s := by rw [← he]
    rw [same] at steady ⊢
    exact settle_steady steady
  · exact settle_two (by simp [settleStep, he, onEvent]) (settleStep_steady steady)

theorem tickTimers_dormant {s : State} (h : Dormant s) (hd : s.setup.standbyDelay = 0) :
    tickTimers s = { s with power := { s.power with standbyTimer := 0 } } := by
  have awake : s.power.state ≠ .sleep := by simp [h.power.1]
  have dwell : s.motion.state ≠ .dwell := by rcases h.rest.1 with k | k <;> simp [k]
  have waits : tickWaits s = s := by simp [tickWaits, dwell, h.rest.2]
  rw [tickTimers_awake h.free awake, tickPort_open h.power.2, waits, tickStandby_off (standbyCondition_off hd)]

/-- R84, R92: what a hold at rest hands. -/
theorem holdMotion_told {m : Motion} (h : m.moving = false) :
    (holdMotion true m).events = [] ∨ ∃ t o, (holdMotion true m).events = [.stoppedAt t o true] := by
  rw [holdMotion, if_neg (by simp [h])]
  split
  · exact .inr ⟨_, _, rfl⟩
  · exact .inl rfl

/-- R84, R85, R151: telling the controller of the faults in an idle part. -/
theorem inhibitController_dormant {s : State} (h : Dormant s) (he : s.events = []) : Dormant (inhibitController s) := by
  have awake : ∀ p : PowerState, p = .active → (if p = .standby then .active else p) = PowerState.active := by
    rintro p rfl; rfl
  unfold inhibitController
  split
  · split
    · exact h
    · rw [hold_rest_eq h.still]
      refine ⟨h.idle, ⟨awake _ h.power.1, h.power.2⟩, h.free, h.gate, ⟨.inr (holdMotion_inhibits _),
        (holdMotion_still s.motion (holdMotion_inhibits _)).2⟩, ?_⟩
      have told : (handOver (holdMotion true s.motion) s).events = (holdMotion true s.motion).events := by
        simp [handOver, he]
      exact told ▸ holdMotion_told h.still
  · refine ⟨h.idle, h.power, h.free, h.gate, ?_, h.events⟩
    show ((liftInhibit s.motion).state = _ ∨ (liftInhibit s.motion).state = _) ∧ (liftInhibit s.motion).settling = _
    unfold liftInhibit
    split
    · exact ⟨.inl rfl, h.rest.2⟩
    · exact h.rest

theorem applyInhibits_idle {s : State} (ha : s.seq.active = none) (hg : s.framer.gate = false) :
    applyInhibits s = inhibitController s := by
  obtain ⟨-, -, -, gate, -⟩ := inh_health s
  have off : (inhibitController s).framer.gate = false := by
    cases h : (inhibitController s).framer.gate with
    | false => rfl
    | true => exact (gate h).symm.trans hg
  simp [applyInhibits, ha, off]

/-- R147 to R151: the Health Monitor's reaction in an idle part, with another report of the step before its own. -/
theorem judgeAfter_dormant {first : State → State} {s : State}
    (hf : ∀ u, Dormant u → Dormant (first u)) (h : Dormant s) (he : s.events = []) : Dormant (judgeAfter first s) := by
  have bits : Dormant (faultBits s) := ⟨h.idle, h.power, h.free, h.gate, h.rest, h.events⟩
  have told := hf _ (inhibitController_dormant bits he)
  rw [← applyInhibits_idle bits.idle.1 bits.gate] at told
  unfold judgeAfter
  split
  · exact told
  · rw [onset_eq]
    exact ⟨told.idle, told.power, told.free, told.gate, told.rest, told.events⟩

theorem followCartin_dormant {s : State} (h : Dormant s) (he : s.events = []) : Dormant (followCartin false s) := by
  have push (u : State) (hu : Dormant u) : Dormant (pushBefore id .cartridgeRemoved u) :=
    ⟨hu.idle, hu.power, hu.free, hu.gate, hu.rest, hu.events⟩
  rw [followCartin, cartinAround, beforeRest_id]
  simp only [Bool.false_eq_true, if_false, removeCartridge, h.idle.1, Option.isSome_none, h.still]
  split
  · exact judgeAfter_dormant (fun _ => id) h he
  · refine judgeAfter_dormant push ⟨h.idle, h.power, h.free, h.gate, h.rest, h.events⟩ he

/-- R94, R145: an idle part in whose millisecond only the inputs `x` change: the reaction, then the standby timer. -/
theorem awakeTick_dormant {s : State} {x : Inputs} (h : Ready s) (hd : s.setup.standbyDelay = 0)
    (hx : sampleInputs s = { s with inputs := x })
    (hr : Dormant (reactTo s.inputs.cartin.level { s with inputs := x })) :
    awakeTick s = { settle (reactTo s.inputs.cartin.level { s with inputs := x }) with
      power := { (settle (reactTo s.inputs.cartin.level { s with inputs := x })).power with standbyTimer := 0 } } := by
  have awake : s.power.state ≠ .sleepPending ∧ s.power.state ≠ .sleep := by simp [h.awake]
  have delay : (settle (reactTo s.inputs.cartin.level { s with inputs := x })).setup.standbyDelay = 0 := by
    rw [(reaction_inner _ _).same.setup]; exact hd
  rw [awakeTick, tickDeadline_off awake.1, if_neg awake.2, tickInputs, hx, tickTimers_dormant _ delay]
  rw [settle_dormant hr]
  exact ⟨hr.idle, hr.power, hr.free, hr.gate, hr.rest, .inl rfl⟩

theorem exec_cartridgeRemoved {s : State} (h : s.power.state ≠ .sleep) : exec .cartridgeRemoved s =
    .next (settle (followCartin false { s with inputs := { s.inputs with cartin := .sampled false } })) :=
  congrArg Host.Outcome.next (if_pos (by simp [reaches, sampling, h]))

theorem exec_drvfltLow {s : State} (h : s.power.state ≠ .sleep) :
    exec (.healthInputChange ⟨.health .drvflt, .level, none⟩ false) s =
      .next (settle (judge { s with inputs := { s.inputs with drvflt := .sampled false } })) := by
  have reached : reaches .level s = true := by simp [reaches, sampling, h]
  refine congrArg Host.Outcome.next ((instant_none _ s).trans ?_)
  show healthChange id .level .drvflt false s = _
  rw [healthChange, if_pos reached, beforeRest_id]
  rfl

/-- R94: the second sample of a level that has become low. -/
theorem sample_falls {x : Sense} (h : x = { pin := false, last := false, level := true }) :
    x.sample x.pin = .sampled false := by
  rw [h]; rfl

/-- Log 10: the second sample of a removal does what the command does. -/
theorem awakeTick_removed {s : State} (h : Ready s) (hd : s.setup.standbyDelay = 0)
    (settled : Settled { s.inputs with cartin := .sampled false })
    (change : s.inputs.cartin = { pin := false, last := false, level := true }) {u : State}
    (run : exec .cartridgeRemoved s = .next u) :
    awakeTick s = { u with power := { u.power with standbyTimer := 0 } } := by
  have sampled : sampleInputs s = { s with inputs := { s.inputs with cartin := .sampled false } } := by
    obtain ⟨-, wprot, drvflt, wrflt, tensok, tempw, supok, -⟩ := settled
    simp only [sampleInputs, h.framer.2.1, Bool.not_false, Bool.or_true, sample_falls change, sample_sampled wprot,
      sample_sampled drvflt, sample_high wrflt, sample_sampled tensok, sample_sampled tempw, sample_sampled supok]
  have reaction : reactTo s.inputs.cartin.level { s with inputs := { s.inputs with cartin := .sampled false } } =
      followCartin false { s with inputs := { s.inputs with cartin := .sampled false } } := by
    rw [change]; rfl
  have rest := h.dormant
  rw [exec_cartridgeRemoved (by simp [h.awake])] at run
  injection run with run
  rw [awakeTick_dormant h hd sampled, reaction, run]
  rw [reaction]
  exact followCartin_dormant ⟨rest.idle, rest.power, rest.free, rest.gate, rest.rest, .inl h.events⟩ h.events

/-- Log 10: the second sample of DRVFLT/ low does what the command does. -/
theorem awakeTick_drvfltLow {s : State} (h : Ready s) (hd : s.setup.standbyDelay = 0)
    (settled : Settled { s.inputs with drvflt := .sampled false })
    (change : s.inputs.drvflt = { pin := false, last := false, level := true }) {u : State}
    (run : exec (.healthInputChange ⟨.health .drvflt, .level, none⟩ false) s = .next u) :
    awakeTick s = { u with power := { u.power with standbyTimer := 0 } } := by
  have sampled : sampleInputs s = { s with inputs := { s.inputs with drvflt := .sampled false } } := by
    obtain ⟨cartin, wprot, -, wrflt, tensok, tempw, supok, -⟩ := settled
    simp only [sampleInputs, h.framer.2.1, Bool.not_false, Bool.or_true, sample_falls change, sample_sampled cartin,
      sample_sampled wprot, sample_high wrflt, sample_sampled tensok, sample_sampled tempw, sample_sampled supok]
  have reaction : reactTo s.inputs.cartin.level { s with inputs := { s.inputs with drvflt := .sampled false } } =
      judge { s with inputs := { s.inputs with drvflt := .sampled false } } := if_pos (by simp)
  have rest := h.dormant
  rw [exec_drvfltLow (by simp [h.awake])] at run
  injection run with run
  rw [awakeTick_dormant h hd sampled, reaction, run]
  rw [reaction]
  exact judgeAfter_dormant (fun _ => id) ⟨rest.idle, rest.power, rest.free, rest.gate, rest.rest, .inl h.events⟩ h.events

/-- Nothing changes at the inputs of an idle part: the standby timer alone counts (R173). -/
theorem awakeTick_settled {s : State} (h : Ready s) (hs : Settled s.inputs) : awakeTick s = tickStandby s := by
  have rest := h.dormant
  have stopped : s.motion.state ≠ .inhibited ∧ s.motion.state ≠ .dwell := by simp [h.rest.1]
  have awake : s.power.state ≠ .sleepPending ∧ s.power.state ≠ .sleep := by simp [h.awake]
  have inputs : tickInputs s = s := by
    have clear : { s with events := [] } = s := by rw [← h.events]
    rw [tickInputs, sampleInputs_settled hs rest.gate, reactTo, if_pos (by simp), judge_healthy h.healthy stopped.1,
      settle_dormant rest, clear]
  have waits : tickWaits s = s := by simp [tickWaits, stopped, h.rest.2]
  rw [awakeTick, tickDeadline_off awake.1, if_neg awake.2, inputs, tickTimers_awake rest.free awake.2,
    tickPort_open rest.power.2, waits]

/-- R173: the standby timer of an idle part. -/
theorem tickStandby_ready {s : State} (h : Ready s) : tickStandby s = { s with
    power := { s.power with
      state := if s.setup.standbyDelay.toNat ≠ 0 ∧ s.setup.standbyDelay.toNat * 100 ≤ s.power.standbyTimer + 1 then
          .standby else .active
      standbyTimer := if s.setup.standbyDelay.toNat ≠ 0 ∧
          s.power.standbyTimer + 1 < s.setup.standbyDelay.toNat * 100 then s.power.standbyTimer + 1 else 0 } } := by
  have rest := h.dormant
  by_cases zero : s.setup.standbyDelay = 0
  · rw [tickStandby_off (standbyCondition_off zero)]
    simp [zero, ← h.awake]
  · have delay : s.setup.standbyDelay.toNat ≠ 0 := fun k => zero (BitVec.eq_of_toNat_eq (by simpa using k))
    have cond : standbyCondition s = true :=
      (standbyCondition_iff s).2 ⟨h.awake, zero, h.idle.1, h.idle.2.1, h.rest.1, rest.free⟩
    rw [tickStandby, if_pos cond]
    by_cases due : s.setup.standbyDelay.toNat * 100 ≤ s.power.standbyTimer + 1
    · have reached : standbyMs s ≤ s.power.standbyTimer + 1 := due
      simp only [if_pos reached, delay, due, Nat.not_lt.2 due, enterStandby, ne_eq, not_false_iff, true_and, and_false,
        if_true, if_false]
    · have early : ¬ standbyMs s ≤ s.power.standbyTimer + 1 := due
      simp only [if_neg early, delay, due, Nat.not_le.1 due, ne_eq, not_false_iff, true_and, and_false,
        if_true, if_false, ← h.awake]

/-- R5, R77, R82, R173: a millisecond of a waiting order in which no wait ends, `q` being what the deadline timer leaves. -/
theorem awakeTick_waits {s : State} {a : Active} {q : Power} (hs : Sound s) (h : Waiting s a)
    (hq : tickDeadline s = { s with power := q }) (state : q.state = s.power.state)
    (hd : s.motion.state = .dwell → 1 < s.motion.dwellTimer)
    (hw : s.motion.state ≠ .dwell → s.motion.settling = true → 1 < s.motion.settleTimer) :
    awakeTick s = { s with
      motion := if s.motion.state = .dwell then { s.motion with dwellTimer := s.motion.dwellTimer - 1 }
        else if s.motion.settling then { s.motion with settleTimer := s.motion.settleTimer - 1 } else s.motion
      power := { q with portWait := q.portWait - 1, standbyTimer := 0 } } := by
  have sound : Sound { s with power := q } := ((Inner.refl s).setPower).sound hs
  have awake : q.state ≠ .sleep := fun k => h.awake.1 (state.symm.trans k)
  have waits := tickWaits_counts (s := tickPort { s with power := q }) hd hw
  rw [awakeTick, hq, if_neg awake, tickInputs_waiting sound (h.setPower q state),
    tickTimers_awake (s := { s with power := q }) h.awake.2 awake, waits,
    tickStandby_off (standbyCondition_active (by simp [tickPort, h.active]))]
  rfl

/-- R5, R77, R82, R173, R175: a millisecond of a waiting order in which no wait and no deadline ends. -/
theorem awakeTick_counts {s : State} {a : Active} (hs : Sound s) (h : Waiting s a)
    (hd : s.motion.state = .dwell → 1 < s.motion.dwellTimer)
    (hw : s.motion.state ≠ .dwell → s.motion.settling = true → 1 < s.motion.settleTimer)
    (hp : s.power.state = .sleepPending → s.power.deadlineTimer + 1 < s.setup.sleepDeadline.toNat * 100) :
    awakeTick s = { s with
      motion := if s.motion.state = .dwell then { s.motion with dwellTimer := s.motion.dwellTimer - 1 }
        else if s.motion.settling then { s.motion with settleTimer := s.motion.settleTimer - 1 } else s.motion
      power := { s.power with
        portWait := s.power.portWait - 1, standbyTimer := 0
        deadlineTimer := if s.power.state = .sleepPending then s.power.deadlineTimer + 1
          else s.power.deadlineTimer } } :=
  awakeTick_waits hs h (tickDeadline_counts h.awake.2 hp) rfl hd hw

/-- R77, R82: a millisecond in which the wait of an order ends. -/
theorem awakeTick_expires {s : State} {a : Active} (hs : Sound s) (h : Waiting s a) (hp : s.power.state = .active)
    (ho : s.power.portWait = 0) (hw : (s.motion.state = .dwell ∧ s.motion.dwellTimer ≤ 1) ∨
      (s.motion.state = .stopped ∧ s.motion.settling = true ∧ s.motion.settleTimer ≤ 1))
    (hu : (waitExpired s).seq.active.isSome = true) :
    awakeTick s = { waitExpired s with power := { (waitExpired s).power with standbyTimer := 0 } } := by
  have pending : s.power.state ≠ .sleepPending := by simp [hp]
  rw [awakeTick, tickDeadline_off pending, if_neg h.awake.1, tickInputs_waiting hs h,
    tickTimers_awake h.awake.2 h.awake.1, tickPort_open ho, tickWaits_expires hw,
    tickStandby_off (standbyCondition_active hu)]

/-- R77, R82: the waiting move goes on, by either of its commands. -/
theorem waitExpired_of_exec {s u : State}
    (h : (s.motion.state = .dwell ∧ s.motion.dwellTimer ≤ 1 ∧ exec .dwellExpiry s = .next u) ∨
      (s.motion.state = .stopped ∧ s.motion.settling = true ∧ s.motion.settleTimer ≤ 1 ∧
        exec .settleDelayExpiry s = .next u)) :
    waitExpired s = u ∧ ((s.motion.state = .dwell ∧ s.motion.dwellTimer ≤ 1) ∨
      (s.motion.state = .stopped ∧ s.motion.settling = true ∧ s.motion.settleTimer ≤ 1)) := by
  rcases h with ⟨dwell, ended, run⟩ | ⟨stopped, wait, ended, run⟩
  · rw [show exec .dwellExpiry s = .next (waitExpired s) from if_pos dwell] at run
    injection run with run
    exact ⟨run, .inl ⟨dwell, ended⟩⟩
  · rw [show exec .settleDelayExpiry s = .next (waitExpired s) from if_pos wait] at run
    injection run with run
    exact ⟨run, .inr ⟨stopped, wait, ended⟩⟩

/-- R175: a millisecond in which the deadline is reached. -/
theorem awakeTick_deadline {s : State} (hp : s.power.state = .sleepPending) (hr : s.inputs.rstLow = false)
    (h : s.setup.sleepDeadline.toNat * 100 ≤ s.power.deadlineTimer + 1) : awakeTick s = forcedSleep s := by
  rw [awakeTick, tickDeadline_due hp hr h]
  exact if_pos rfl

end Sys2Proof.Machine

section

open Sys2Proof Sys2Proof.Machine

/-- Settles O2, by what the millisecond samples and counts. -/
theorem Sys2Proof.idleMillisecond : Obligations.IdleMillisecond := by
  unfold Obligations.IdleMillisecond
  refine ⟨fun s empty ready settled => ?_, fun s empty asleep stands => ?_, fun s empty follows => ?_,
    fun s empty awake notPending stands => ?_, fun i x s u empty ready delay settled change run => ?_,
    fun a s empty sound waiting => ?_⟩
  · have awake : s.power.state ≠ .sleep := by simp [ready.awake]
    rw [step_idle empty, msTick_stands settled.slpStands, if_neg awake, sampleSlp_settled settled,
      awakeTick_settled ready settled, tickStandby_ready ready]
  · rw [step_idle empty, msTick_stands stands, if_pos asleep, sampleSlp, sample_eq]
  · rw [step_idle empty, msTick_follows follows]
    refine ⟨fun low rst => ?_, fun high asleep => ?_⟩
    · rw [low]
      exact congrArg _ (if_pos (.inr (followSlp_low rst)))
    · rw [high]
      exact congrArg _ (if_pos (.inl asleep))
  · refine ⟨_, step_idle empty, ?_⟩
    rw [msTick_stands stands, if_neg awake, awakeTick_inputs (s := sampleSlp s) notPending awake]
    simp only [sampleInputs, sampleSlp, sample_eq]
  · have awake : s.power.state ≠ .sleep := by simp [ready.awake]
    have slp : s.inputs.slp = x.slp := by rcases change with ⟨-, rfl, -⟩ | ⟨-, rfl, -⟩ <;> rfl
    have standing : s.inputs.slp = .sampled s.inputs.slp.pin := by
      obtain ⟨-, -, -, -, -, -, -, h⟩ := settled
      rw [slp]; exact h
    have sampled : sampleSlp s = s := by simp only [sampleSlp, sample_sampled standing]
    rw [step_idle empty, msTick_stands (.inr (congrArg Sense.level standing).symm), if_neg awake, sampled]
    rcases change with ⟨rfl, rfl, change⟩ | ⟨rfl, rfl, change⟩
    · rw [awakeTick_removed ready delay settled change run]
    · rw [awakeTick_drvfltLow ready delay settled change run]
  · rw [step_idle empty, msTick_waiting waiting]
    refine ⟨fun dwell wait deadline => ?_, fun u awake port active expiry => ?_, fun pending due => ?_⟩
    · rw [awakeTick_counts sound waiting dwell wait deadline]
    · obtain ⟨rfl, ended⟩ := waitExpired_of_exec expiry
      rw [awakeTick_expires sound waiting awake port ended active]
    · rw [awakeTick_deadline pending waiting.awake.2 due]
      exact (if_pos pending).symm

end
end

section
/-! SUPPORT. Who changes the setup and the supervisor's registers (R16, R148, R155, R158, R164, R166, R178 to R181), and the
statement about it. -/

namespace Sys2Proof.Machine

/-! ### What leaves the setup and the supervisor's registers alone -/

/-- The link, the mask, the supervisor controls and the POWER-ON flag stay. -/
structure Supervised (s t : State) : Prop where
  link : t.link = s.link
  mask : t.health.mask = s.health.mask
  control : t.health.control = s.health.control
  powerOnFlag : t.health.powerOnFlag = s.health.powerOnFlag

/-- The setup stays as well. -/
structure Ruled (s t : State) : Prop extends Supervised s t where
  setup : t.setup = s.setup

theorem Supervised.trans {s t u : State} (h : Supervised s t) (k : Supervised t u) : Supervised s u :=
  ⟨k.link.trans h.link, k.mask.trans h.mask, k.control.trans h.control, k.powerOnFlag.trans h.powerOnFlag⟩

theorem Ruled.trans {s t u : State} (h : Ruled s t) (k : Ruled t u) : Ruled s u :=
  ⟨h.toSupervised.trans k.toSupervised, k.setup.trans h.setup⟩

theorem Ruled.refl (s : State) : Ruled s s := ⟨⟨rfl, rfl, rfl, rfl⟩, rfl⟩

theorem Owned.ruled {s t : State} (h : Owned s t) : Ruled s t := ⟨⟨h.link, h.mask, h.control, h.powerOnFlag⟩, h.setup⟩

theorem Act.ruled {s t : State} (h : Act s t) : Ruled s t := h.same.ruled

theorem Inner.ruled {s t : State} (h : Inner s t) : Ruled s t := h.act.ruled

/-- The health taken from a judgement and a clear action keeps the registers. -/
theorem ruled_of_judged {s t : State} {c : BitVec 6} (hs : t.setup = s.setup) (hl : t.link = s.link)
    (hh : t.health = (s.health.judged c).keeping c) : Ruled s t :=
  ⟨⟨hl, by rw [hh]; rfl, by rw [hh]; rfl, by rw [hh]; rfl⟩, hs⟩

/-- Log 6: all consequences of a command. -/
theorem Ruled.settled {s t : State} (h : Ruled s t) : Ruled s (settle t) := h.trans (settle_inner t).ruled

theorem Ruled.guarded {p : Prop} [Decidable p] {s a t : State} (k : Ruled s a)
    (h : (if p then Host.Outcome.next a else .next s : Host.Outcome State Fault Refusal) = .next t) : Ruled s t := by
  split at h
  · injection h with h; exact h ▸ k
  · injection h with h; exact h ▸ .refl s

theorem Ruled.next {s a t : State} (k : Ruled s a)
    (h : (Host.Outcome.next a : Host.Outcome State Fault Refusal) = .next t) : Ruled s t := by
  injection h with h; exact h ▸ k

/-! ### The resets and the wake (R178, R180, R181) -/

theorem wakeUp_ruled (s : State) : Ruled s (wakeUp s) := by
  have woken := wakeChanges_woken s
  obtain ⟨r, -, -, -, eq⟩ := wakeUp_eq s
  rw [eq]
  exact ruled_of_judged woken.same.1 woken.same.2.1 woken.health

theorem setSlp_ruled (high : Bool) (s : State) : Ruled s (setSlp high s) := (setInputs_act s _).ruled

theorem followSlp_ruled (s : State) : Ruled s (followSlp s) := by
  unfold followSlp
  split
  · exact .refl s
  · split
    · split
      · exact .refl s
      · exact (forcedSleep_inner s).ruled
    · split
      · exact wakeUp_ruled s
      · exact .refl s

theorem deviceResetActs_ruled (s : State) : Ruled s (deviceResetActs s) := by
  obtain ⟨st, r, started, reseated, -, imposed⟩ := deviceResetActs_spec s
  obtain ⟨sSetup, sLink, -⟩ := started.same
  obtain ⟨rSetup, rLink, rHealth, -⟩ := reseated.same
  obtain ⟨uSetup, uLink, uHealth, -⟩ := imposed.same
  obtain ⟨mask, control, flag⟩ := afterDeviceReset_registers r.health (conditions r)
  have health : r.health = s.health := rHealth.trans started.health
  refine ⟨⟨uLink.trans (rLink.trans sLink), ?_, ?_, ?_⟩, uSetup.trans (rSetup.trans sSetup)⟩
  · rw [uHealth, ← health]; exact mask
  · rw [uHealth, ← health]; exact control
  · rw [uHealth, ← health]; exact flag

theorem deviceReset_ruled (s : State) : Ruled s (deviceReset s) :=
  (deviceResetActs_ruled s).trans ((judgeSources_inner _).after (resetReport_inner _ _)).ruled

theorem assertRst_supervised (s : State) : Supervised s (assertRst s) := by
  have started := resetStart_started s
  exact ⟨started.same.2.1, congrArg Health.mask started.health, congrArg Health.control started.health,
    congrArg Health.powerOnFlag started.health⟩

theorem releaseRst_ruled (s : State) : Ruled s (releaseRst s) := by
  have high : Ruled s { s with inputs := { s.inputs with rstLow := false } } := ⟨⟨rfl, rfl, rfl, rfl⟩, rfl⟩
  have ended (u : State) : Ruled u (endRelease u) :=
    ((judgeSources_inner _).after ((resetReport_inner _ _).after (Inner.refl u).setPower)).ruled
  rw [releaseRst_eq]
  refine high.trans (.trans ?_ (ended _))
  split
  · have woken := wakeChanges_woken { s with inputs := { s.inputs with rstLow := false } }
    exact ruled_of_judged woken.same.1 woken.same.2.1 woken.health
  · refine .trans ?_ (clearAction_inner _).ruled
    refine .trans ?_ (faultBits_same _).kept.ruled
    exact ((loadCartridgeLevels_act _).ruled).trans (resetCartridge_inner _).ruled

/-! ### The host's accesses -/

theorem csRead_ruled {act : State → State} (ha : ∀ s, Ruled s (act s)) (s : State) : Ruled s (csRead act s) := by
  unfold csRead
  split
  · exact ha s
  · exact ⟨⟨rfl, rfl, rfl, rfl⟩, rfl⟩

theorem csWrite_ruled {act : State → State} (ha : ∀ s, Ruled s (act s)) (s : State) : Ruled s (csWrite act s) := by
  unfold csWrite
  split
  · exact ha s
  · exact .refl s

theorem csWrite_supervised {act : State → State} (ha : ∀ s, Supervised s (act s)) (s : State) :
    Supervised s (csWrite act s) := by
  unfold csWrite
  split
  · exact ha s
  · exact (Ruled.refl s).toSupervised

theorem dataAccess_ruled {act cs : State → State} (ha : ∀ s, Ruled s (act s)) (hc : ∀ s, Ruled s (cs s)) (via : BusPath)
    (s : State) : Ruled s (dataAccess via cs act s) := by
  cases via with
  | cs => exact hc s
  | dack =>
    unfold dataAccess dackStrobe
    dsimp only
    split
    · exact ha s
    · exact .refl s

theorem dataPortRead_ruled (s : State) : Ruled s (dataPortRead s) := by
  unfold dataPortRead
  split
  · exact ⟨⟨rfl, rfl, rfl, rfl⟩, rfl⟩
  · exact .settled ⟨⟨rfl, rfl, rfl, rfl⟩, rfl⟩

theorem dataPortWrite_ruled (v : Byte) (s : State) : Ruled s (dataPortWrite v s) := by
  unfold dataPortWrite
  split
  · exact ⟨⟨rfl, rfl, rfl, rfl⟩, rfl⟩
  · split
    · exact ⟨⟨rfl, rfl, rfl, rfl⟩, rfl⟩
    · exact .settled ⟨⟨rfl, rfl, rfl, rfl⟩, rfl⟩

theorem setupRead_ruled (s : State) : Ruled s (setupRead s) := by
  unfold setupRead
  split
  · exact ⟨⟨rfl, rfl, rfl, rfl⟩, rfl⟩
  · unfold readItem
    dsimp only
    split
    · split <;> exact ⟨⟨rfl, rfl, rfl, rfl⟩, rfl⟩
    · exact ⟨⟨rfl, rfl, rfl, rfl⟩, rfl⟩

theorem windowRead_ruled (addr : BitVec 3) (s : State) : Ruled s (windowRead addr s) := by
  unfold windowRead
  split
  · exact dataPortRead_ruled s
  · exact ⟨⟨rfl, rfl, rfl, rfl⟩, rfl⟩
  · exact ⟨⟨rfl, rfl, rfl, rfl⟩, rfl⟩
  · exact ⟨⟨rfl, rfl, rfl, rfl⟩, rfl⟩
  · exact ⟨⟨rfl, rfl, rfl, rfl⟩, rfl⟩
  · exact ⟨⟨rfl, rfl, rfl, rfl⟩, rfl⟩
  · exact ⟨⟨rfl, rfl, rfl, rfl⟩, rfl⟩
  · exact setupRead_ruled s

theorem offerOrder_ruled (code : Byte) (s : State) : Ruled s (offerOrder code s) := by
  unfold offerOrder
  split
  · exact .settled ⟨⟨rfl, rfl, rfl, rfl⟩, rfl⟩
  · exact ⟨⟨rfl, rfl, rfl, rfl⟩, rfl⟩

theorem orderByte_ruled (code : Byte) (s : State) : Ruled s (orderByte code s) := by
  unfold orderByte
  split
  · exact (haltOrder_inner s).ruled
  · split
    · exact (emergencyStop_inner s).ruled
    · split
      · exact deviceReset_ruled s
      · exact offerOrder_ruled code s

theorem stageParam_ruled (v : Byte) (s : State) : Ruled s (stageParam v s) := by
  unfold stageParam
  split <;> exact ⟨⟨rfl, rfl, rfl, rfl⟩, rfl⟩

theorem ackReport_ruled (s : State) : Ruled s (ackReport s) := .settled ⟨⟨rfl, rfl, rfl, rfl⟩, rfl⟩

theorem reportControl_ruled (v : Byte) (s : State) : Ruled s (reportControl v s) := by
  unfold reportControl
  split
  · exact ackReport_ruled s
  · split
    · exact ⟨⟨rfl, rfl, rfl, rfl⟩, rfl⟩
    · exact .refl s

/-- R16: what a commit changes besides the setup. -/
theorem commitValue_supervised (r : ItemRow) (v : Nat) (s : State) : Supervised s (commitValue r v s) := by
  unfold commitValue
  split
  · unfold commitItem
    split
    · have stored : Supervised s { s with setup := s.setup.store r.item v } := ⟨rfl, rfl, rfl, rfl⟩
      exact stored.trans (retime_inner r.item _).ruled.toSupervised
    · exact ⟨rfl, rfl, rfl, rfl⟩
  · unfold commitFaultClear
    split
    · exact (clearAction_inner s).ruled.toSupervised
    · exact ⟨rfl, rfl, rfl, rfl⟩
  · unfold commitEntry
    split <;> exact ⟨rfl, rfl, rfl, rfl⟩
  · exact ⟨rfl, rfl, rfl, rfl⟩

theorem setupWrite_supervised (v : Byte) (s : State) : Supervised s (setupWrite v s) := by
  unfold setupWrite
  split
  · exact ⟨rfl, rfl, rfl, rfl⟩
  · rename_i r _
    refine .trans (t := writeItem r v s) ?_ ⟨rfl, rfl, rfl, rfl⟩
    unfold writeItem
    split
    · exact ⟨rfl, rfl, rfl, rfl⟩
    · split
      · exact ⟨rfl, rfl, rfl, rfl⟩
      · have cleared : Supervised s (clearShadow r s) := ⟨rfl, rfl, rfl, rfl⟩
        exact cleared.trans (commitValue_supervised r (assembled s r v) _)

theorem windowWrite_supervised (addr : BitVec 3) (v : Byte) (s : State) : Supervised s (windowWrite addr v s) := by
  unfold windowWrite
  split
  · exact (dataPortWrite_ruled v s).toSupervised
  · exact (orderByte_ruled v s).toSupervised
  · exact (stageParam_ruled v s).toSupervised
  · exact (reportControl_ruled v s).toSupervised
  · exact ⟨rfl, rfl, rfl, rfl⟩
  · exact ⟨rfl, rfl, rfl, rfl⟩
  · exact ⟨rfl, rfl, rfl, rfl⟩
  · exact setupWrite_supervised v s

theorem hostRead_ruled (addr : BitVec 3) (s : State) : Ruled s (hostAccess (.read addr) s) :=
  csRead_ruled (windowRead_ruled addr) s

theorem hostAccess_supervised (access : HostAccess) (s : State) : Supervised s (hostAccess access s) := by
  cases access with
  | read addr => exact (hostRead_ruled addr s).toSupervised
  | write addr v => exact csWrite_supervised (windowWrite_supervised addr v) s

/-! ### The commands in which no event, access and commit meet -/

/-- The commands that stand for an instant: a step, a change of a level, a link command (log 3). -/
def instantRow : Instr → Bool
  | .capstanStep _ _ => true
  | .healthInputChange _ _ => true
  | .peek _ => true
  | .poke _ => true
  | .peekClear _ => true
  | .ping _ => true
  | _ => false

theorem strobeConflict_ruled {cs dack : Bool} {addr : BitVec 3} {s t : State}
    (h : exec (.strobeConflict cs dack addr) s = .next t) : Ruled s t := by
  change execStrobeConflict cs dack addr s = .next t at h
  unfold execStrobeConflict at h
  split at h
  · exact (Ruled.refl s).next h
  · split at h
    · exact Ruled.next (a := setDataError (drive 0 s)) ⟨⟨rfl, rfl, rfl, rfl⟩, rfl⟩ h
    · exact Ruled.next (a := drive 0 s) ⟨⟨rfl, rfl, rfl, rfl⟩, rfl⟩ h

theorem conflictRead_ruled {addr : BitVec 3} {s t : State} (h : exec (.csDackConflict (.read addr)) s = .next t) :
    Ruled s t := by
  change execCsDackConflict (.read addr) s = .next t at h
  unfold execCsDackConflict at h
  split at h
  · exact Ruled.next (a := setDataError (drive 0 s)) ⟨⟨rfl, rfl, rfl, rfl⟩, rfl⟩ h
  · exact (hostRead_ruled addr s).next h

/-- R63: the event of a header field. -/
theorem headerEvent_ruled {bits : BitVec 64} {s t : State} (h : exec (.headerEvent bits) s = .next t) : Ruled s t := by
  change execHeaderEvent bits s = .next t at h
  unfold execHeaderEvent at h
  split at h
  · exact (Ruled.refl s).next h
  · exact (fieldRead_inner _ bits s).ruled.settled.next h

theorem captureResult_ruled {data : List Byte} {trailer : BitVec 32} {s t : State}
    (h : exec (.captureResult data trailer) s = .next t) : Ruled s t := by
  change execCaptureResult data trailer s = .next t at h
  unfold execCaptureResult at h
  split at h
  · exact (Ruled.refl s).next h
  · exact (captureEnds_inner _ data trailer s).ruled.settled.next h

/-- R16, R178 to R181: every other command that is no instant, no window write, no power-on reset and no assertion of
RST/. -/
theorem exec_ruled {i : Instr} {s t : State} (hw : changesSetup i = false) (hi : instantRow i = false)
    (h : exec i s = .next t) : Ruled s t := by
  have order {c : Byte} (ho : orderCode i = some c) : Ruled s t := by
    rw [exec_order ho] at h
    exact (csWrite_ruled (act := windowWrite 1 c) (orderByte_ruled c) s).next h
  cases i with
  | dataRead via => exact (dataAccess_ruled dataPortRead_ruled (csRead_ruled dataPortRead_ruled) via s).next h
  | dataWrite via v =>
    exact (dataAccess_ruled (dataPortWrite_ruled v) (csWrite_ruled (dataPortWrite_ruled v)) via s).next h
  | strobeConflict => exact strobeConflict_ruled h
  | csDackConflict access =>
    cases access with
    | read addr => exact conflictRead_ruled h
    | write addr v => cases hw
  | param v => exact (csWrite_ruled (stageParam_ruled v) s).next h
  | reportRead => exact (csRead_ruled (act := readReport) (fun _ => ⟨⟨rfl, rfl, rfl, rfl⟩, rfl⟩) s).next h
  | acknowledge => exact (csWrite_ruled ackReport_ruled s).next h
  | reportRewind => exact (csWrite_ruled (act := rewindReport) (fun _ => ⟨⟨rfl, rfl, rfl, rfl⟩, rfl⟩) s).next h
  | interruptEnable v => exact (csWrite_ruled (act := setEnables v) (fun _ => ⟨⟨rfl, rfl, rfl, rfl⟩, rfl⟩) s).next h
  | flagClear v => exact (csWrite_ruled (act := clearFlags v) (fun _ => ⟨⟨rfl, rfl, rfl, rfl⟩, rfl⟩) s).next h
  | setupDataRead => exact (csRead_ruled setupRead_ruled s).next h
  | registerWrite | setupDataWrite | faultClear | mapEntryCommit | powerOn | rstAssertion => cases hw
  | mark | clearMap | load | unload | rewind | locate | moveRaw | spaceBlocks | spaceFences | seekEnd | readBlocks
  | verifyBlocks | writeBlocks | writeFences | eraseRemainder | unknownCode | halt | emergencyStop | deviceReset =>
    exact order rfl
  | orderDeparture => exact (depart_inner s).ruled.settled.guarded h
  | capstanStep | healthInputChange | peek | poke | peekClear | ping => cases hi
  | dwellExpiry | settleDelayExpiry => exact (waitExpired_inner s).ruled.guarded h
  | tachPulse => exact (clearStall_inner s).ruled.next h
  | stall => exact (((stallFault_inner _).after (clearStall_inner s)).ruled.settled).guarded h
  | seekExhausted => exact (Ruled.settled (s := s) (t := exhaustSeek s) ⟨⟨rfl, rfl, rfl, rfl⟩, rfl⟩).guarded h
  | gapLimitReached => exact (gapReached_inner s).ruled.next h
  | headerEvent => exact headerEvent_ruled h
  | captureResult => exact captureResult_ruled h
  | verifyVerdict good => exact (strobeVerdict_inner good s).ruled.next h
  | verdictWindowExpiry => exact (windowCloses_inner s).ruled.next h
  | endMarkComplete => exact (endMarkEnds_inner s).ruled.next h
  | repositionResume | writeWaitEnd => exact (beginRun_inner s).ruled.settled.guarded h
  | cartridgeInserted bots eots =>
    exact ((setMarkers_act bots eots s).ruled.trans (cartinChange_act .level true _).ruled).next h
  | cartridgeRemoved => exact (cartinChange_act .level false s).ruled.next h
  | standby => exact (enterStandby_inner s).ruled.guarded h
  | sleepDeadline => exact (forcedSleep_inner s).ruled.guarded h
  | forcedEntry => exact ((setSlp_ruled false s).trans (followSlp_ruled _)).next h
  | wake => exact ((setSlp_ruled true s).trans (followSlp_ruled _)).next h
  | hostPortActivation =>
    exact Ruled.next (a := { s with power := { s.power with portWait := 0 } }) ⟨⟨rfl, rfl, rfl, rfl⟩, rfl⟩ h
  | rstRelease => exact (releaseRst_ruled s).guarded h
  | deferredEntry => exact (enterSleep_inner s).ruled.guarded h

end Sys2Proof.Machine
end

section
/-! SUPPORT. One instant, at which an event of the mechanism, a host access and a link commit may fall (R53, R168, log 3), and
the frames of the link (R159): what each of them keeps, the whole keeps. -/

namespace Sys2Proof.Machine

/-- A property of the part that all it does of its own keeps, and with it a commit, where one falls, and the host access of the
instant. -/
structure KeptThrough (host : Option HostAccess) (deselect : Bool) (P : State → Prop) : Prop where
  ruled : ∀ {s t}, Ruled s t → P s → P t
  commit : deselect = true → ∀ {s}, P s → P (judgeFrame s)
  access : ∀ {a}, host = some a → ∀ {s}, P s → P (hostAccess a s)

section

variable {P : State → Prop} {host : Option HostAccess} {deselect : Bool}

theorem KeptThrough.commitAt (k : KeptThrough host deselect P) {s : State} (h : P s) : P (commitAt deselect s) := by
  unfold Machine.commitAt
  split
  · rename_i hd; exact k.commit hd h
  · exact h

/-! ### The event (R53) -/

variable (k : KeptThrough host deselect P) {act : State → State} (ha : ∀ {u}, P u → P (act u))

include k ha

theorem KeptThrough.beforeRest {s : State} (h : P s) : P (beforeRest act s) := by
  have quiet : P (act { s with events := [] }) := ha (k.ruled (Inner.refl s).setEvents.ruled h)
  exact k.ruled (Inner.refl (act { s with events := [] })).setEvents.ruled quiet

theorem KeptThrough.settleAroundFor (n : Nat) {s : State} (h : P s) : P (settleAroundFor act n s) := by
  induction n generalizing s with
  | zero => exact k.ruled (settleFor_inner 0 _).ruled (ha h)
  | succ n ih =>
    unfold Machine.settleAroundFor
    split
    · exact k.ruled (settleFor_inner _ _).ruled (ha h)
    · split
      · exact k.ruled (settleFor_inner _ _).ruled (k.beforeRest ha h)
      · exact ih (k.ruled ((onEvent_inner _ _).after (Inner.refl s).setEvents).ruled h)

theorem KeptThrough.stepAround (bots eots : Bool) (header : Option (BitVec 64)) {s : State} (h : P s) :
    P (stepAround act bots eots header s) := by
  unfold Machine.stepAround
  split
  · rename_i moving
    have step := stepCapstan_inner header (s := setMarkers bots eots s) moving
    exact k.settleAroundFor ha _ (k.ruled (step.act.after (setMarkers_act bots eots s)).ruled h)
  · exact ha h

theorem KeptThrough.cartinChange (how : Change) (v : Bool) {s : State} (h : P s) : P (cartinChange act how v s) := by
  unfold Machine.cartinChange
  split
  · refine k.ruled (settle_inner _).ruled (k.beforeRest ha ?_)
    split
    · exact k.ruled ((insertCartridge_inner act _).act.after (setInputs_act s _)).ruled h
    · exact k.ruled ((removeCartridge_inner act _).act.after (setInputs_act s _)).ruled h
  · exact ha (k.ruled (setInputs_act s _).ruled h)

theorem KeptThrough.healthChange (how : Change) (input : HealthInput) (v : Bool) {s : State} (h : P s) :
    P (healthChange act how input v s) := by
  unfold Machine.healthChange
  split
  · exact k.ruled (settle_inner _).ruled
      (k.beforeRest ha (k.ruled ((judge_inner _).act.after (setInputs_act s _)).ruled h))
  · exact ha (k.ruled (setInputs_act s _).ruled h)

theorem KeptThrough.eventAround (b : Beside) {s : State} (h : P s) : P (eventAround b act s) := by
  cases b with
  | nothing => exact ha h
  | step bots eots header => exact k.stepAround ha bots eots header h
  | input line how high =>
    cases line with
    | health input => exact k.healthChange ha how input high h
    | wprot => exact ha (k.ruled (wprotChange_act how high s).ruled h)
    | cartin bots eots => exact k.cartinChange ha how high (k.ruled (setMarkers_act bots eots s).ruled h)

theorem KeptThrough.eventCommits (b : Beside) (waits : Bool) {s : State} (h : P s) :
    P (eventCommits b deselect waits act s) := by
  have around := k.eventAround (act := fun u => Machine.commitAt deselect (act u)) (fun hu => k.commitAt (ha hu)) b
    (k.ruled (lockArises_inner b deselect s).ruled h)
  unfold Machine.eventCommits
  dsimp only
  split
  · exact k.ruled ((settle_inner _).after (interrupt_inner _)).ruled around
  · exact around

omit ha

/-! ### The host access and the immediate orders (R38 to R40, R168) -/

omit k in
theorem dataReadBeside_ruled (s : State) : Ruled s (dataReadBeside s) := by
  unfold dataReadBeside
  split <;> exact ⟨⟨rfl, rfl, rfl, rfl⟩, rfl⟩

omit k in
theorem dataWriteBeside_ruled (v : Byte) (s : State) : Ruled s (dataWriteBeside v s) := by
  unfold dataWriteBeside
  split <;> exact ⟨⟨rfl, rfl, rfl, rfl⟩, rfl⟩

theorem KeptThrough.accessBeside {a : HostAccess} (hh : host = some a) {s : State} (h : P s) : P (accessBeside a s) := by
  unfold Machine.accessBeside
  split
  · exact k.ruled (csRead_ruled dataReadBeside_ruled s) h
  · exact k.ruled (csWrite_ruled (dataWriteBeside_ruled _) s) h
  · exact k.access hh h

theorem KeptThrough.accessAtInstant {a : HostAccess} (hh : host = some a) (b : Beside) {s : State} (h : P s) :
    P (accessAtInstant a b deselect s) := by
  unfold Machine.accessAtInstant
  split
  · refine k.eventCommits id b false ?_
    unfold accessFirst
    dsimp only
    split
    · exact k.ruled (reflag_inner _ _ _).ruled (k.access hh h)
    · exact k.access hh h
  · exact k.eventCommits (k.accessBeside hh) b false h
  · exact k.access hh (k.eventCommits id b false h)

theorem KeptThrough.idleStopAtInstant (c : Cause) (code : Byte) (b : Beside) {s : State} (h : P s) :
    P (idleStopAtInstant c code b deselect s) :=
  k.eventCommits id b false (k.ruled (idleStopBefore_inner _ c code s).ruled h)

theorem KeptThrough.haltAtInstant (b : Beside) {s : State} (h : P s) : P (haltAtInstant b deselect s) := by
  unfold Machine.haltAtInstant
  split
  · exact k.idleStopAtInstant _ _ b h
  · split
    · exact k.eventCommits id b false h
    · have pending : Ruled s { s with seq := { s.seq with haltPending := true } } := ⟨⟨rfl, rfl, rfl, rfl⟩, rfl⟩
      exact k.eventCommits id b true (k.ruled pending h)

theorem KeptThrough.emergencyAtInstant (b : Beside) {s : State} (h : P s) : P (emergencyAtInstant b deselect s) := by
  unfold Machine.emergencyAtInstant
  split
  · exact k.idleStopAtInstant _ _ b h
  · exact k.ruled (settle_inner _).ruled (k.eventCommits (fun hu => k.ruled (stopActs_inner _).ruled hu) b false h)

theorem KeptThrough.resetAtInstant (b : Beside) {s : State} (h : P s) : P (resetAtInstant b deselect s) := by
  have acts : Ruled s (deviceResetActs (bareEvent b s)) := (bareEvent_act b s).ruled.trans (deviceResetActs_ruled _)
  have reset := k.ruled (acts.trans (resetReportBefore_inner (Machine.commitAt deselect) .deviceReset _).ruled) h
  have reported (u : State) (q : Reports) : Ruled u { u with reports := q } := ⟨⟨rfl, rfl, rfl, rfl⟩, rfl⟩
  exact k.ruled ((reported _ _).trans (judgeSources_inner _).ruled) (k.commitAt reset)

theorem KeptThrough.instantWith (b : Beside) {s : State} (h : P s) : P (instantWith host b deselect s) := by
  unfold Machine.instantWith
  split
  · exact k.eventCommits id b false h
  · split
    · unfold immediateAtInstant
      split
      · exact k.haltAtInstant b h
      · split
        · exact k.emergencyAtInstant b h
        · exact k.resetAtInstant b h
    · exact k.accessAtInstant rfl b h
  · exact k.accessAtInstant rfl b h

/-- Whatever falls at one instant. -/
theorem KeptThrough.instant (b : Beside) {s : State} (h : P s) : P (instant host b deselect s) := by
  unfold Machine.instant
  split
  · exact k.instantWith b h
  · split
    · exact k.ruled (bareEvent_act b _).ruled (k.instantWith .nothing h)
    · exact k.instantWith .nothing (k.ruled (bareEvent_act b s).ruled h)

end

/-! ### The frames of the link (R159, R163) -/

theorem clockFrame_setup (w : Sent) (n : Nat) (high : Bool) (s : State) : (clockFrame w n high s).setup = s.setup := by
  unfold clockFrame clockEdges
  split <;> rfl

theorem commitControl_setup (v : BitVec 16) (s : State) : (commitControl v s).setup = s.setup := by
  unfold commitControl
  dsimp only
  split
  · unfold lockoutSet
    split
    · unfold lockReaches
      split
      · rfl
      · exact ((settle_inner _).after ((interrupt_inner _).after (onActive_inner _ _))).same.setup
    · split <;> rfl
  · split
    · unfold lockoutCleared
      split <;> rfl
    · rfl

theorem commitSleepRequest_setup (v : BitVec 16) (s : State) : (commitSleepRequest v s).setup = s.setup := by
  unfold commitSleepRequest
  dsimp only
  split
  · exact (linkSourceSet_inner _).same.setup
  · split
    · exact (linkSourceClear_inner _).same.setup
    · rfl

/-- R148, R155, R164, R166: no commit of a frame changes the setup. -/
theorem commitFrame_setup (op : LinkOp) (item : BitVec 5) (v : BitVec 16) (s : State) :
    (commitFrame op item v s).setup = s.setup := by
  unfold commitFrame
  split
  · unfold commitPoke
    split
    · exact ((settle_inner _).after (judge_inner _)).same.setup
    · exact commitControl_setup v s
    · exact commitSleepRequest_setup v s
    · rfl
  · unfold commitClear
    split
    · rfl
    · exact (clearAction_inner s).same.setup
    · rfl
  · rfl

theorem installPair_setup (s : State) : (installPair s).setup = s.setup := by
  unfold installPair
  split <;> rfl

theorem commitAsleep_setup (op : LinkOp) (item : BitVec 5) (v : BitVec 16) (s : State) :
    (commitAsleep op item v s).setup = s.setup := by
  unfold commitAsleep
  split
  · unfold wakeByLink
    split
    · rfl
    · exact (wakeUp_ruled _).setup
  · rfl

theorem judgeFrame_setup (s : State) : (judgeFrame s).setup = s.setup := by
  unfold judgeFrame
  dsimp only
  split
  · rfl
  · split
    · exact commitAsleep_setup _ _ _ _
    · exact (commitFrame_setup _ _ _ _).trans (installPair_setup _)

/-- R16: an instant without a host write leaves the setup, a commit or none. -/
theorem keptThrough_setup (c : Setup) {host : Option HostAccess} (hw : writesWith host = false) (deselect : Bool) :
    KeptThrough host deselect (fun s => s.setup = c) where
  ruled h hs := h.setup.trans hs
  commit _ {s} hs := (judgeFrame_setup s).trans hs
  access {a} ha {s} hs := by
    subst ha
    cases a with
    | read addr => exact (hostRead_ruled addr s).setup.trans hs
    | write addr v => cases hw

theorem deselectFrame_setup {host : Option HostAccess} (hw : writesWith host = false) (b : Beside) (s : State) :
    (deselectFrame host b s).setup = s.setup := (keptThrough_setup s.setup hw true).instant b rfl

theorem openFrame_setup (w : Sent) (n : Nat) (high : Bool) (s : State) : (openFrame w n high s).setup = s.setup := by
  refine (clockFrame_setup _ _ _ _).trans ?_
  show (if s.link.frame.selected then deselectFrame none .nothing s else s).setup = s.setup
  split
  · exact deselectFrame_setup rfl _ s
  · rfl

theorem closeFrame_setup (w : Sent) {f : FrameBits} (hw : writesWith f.host = false) (s : State) :
    (closeFrame w f s).setup = s.setup := by
  unfold closeFrame
  split
  · exact (deselectFrame_setup hw _ _).trans (clockFrame_setup _ _ _ _)
  · exact (keptThrough_setup s.setup hw false).instant f.beside rfl

theorem linkFrame_setup (w : Sent) {f : FrameBits} (hw : writesWith f.host = false) (s : State) :
    (linkFrame w f s).setup = s.setup := by
  unfold linkFrame
  split
  · exact (closeFrame_setup w hw _).trans (openFrame_setup _ _ _ s)
  · exact openFrame_setup _ _ _ s
  · unfold continueFrame
    split
    · exact clockFrame_setup _ _ _ s
    · rfl
  · exact closeFrame_setup w hw s

/-- The supervisor's registers: the mask, the controls, SLEEP REQUEST and the POWER-ON flag. -/
def supervision (s : State) : BitVec 6 × BitVec 4 × Bool × Bool :=
  (s.health.mask, s.health.control, s.link.sleepReq, s.health.powerOnFlag)

theorem Supervised.supervision {s t : State} (h : Supervised s t) : supervision t = supervision s := by
  rw [Machine.supervision, h.mask, h.control, h.link, h.powerOnFlag]
  rfl

/-- The frame in the link's register writes nothing: it is no valid POKE and no valid PEEK-CLEAR. -/
def ReadsOnly (r : FrameRegs) : Prop :=
  regValid r.edges r.shiftIn = true → byteOp (regByte0 r.shiftIn) = .peek ∨ byteOp (regByte0 r.shiftIn) = .ping

theorem installPair_link (s : State) : (installPair s).health = s.health ∧
    (installPair s).link.sleepReq = s.link.sleepReq ∧
    (installPair s).link.frame.edges = s.link.frame.edges ∧ (installPair s).link.frame.shiftIn = s.link.frame.shiftIn := by
  unfold installPair
  split <;> exact ⟨rfl, rfl, rfl, rfl⟩

/-- R161, R163: such a frame leaves the supervisor's registers, and its own bits. -/
theorem judgeFrame_readsOnly {s : State} (h : ReadsOnly s.link.frame) :
    supervision (judgeFrame s) = supervision s ∧ ReadsOnly (judgeFrame s).link.frame := by
  unfold judgeFrame
  dsimp only
  split
  · exact ⟨rfl, h⟩
  · rename_i valid
    have reads := h (by simpa using valid)
    split
    · have asleep (v : BitVec 16) (item : BitVec 5) (u : State) :
          commitAsleep (byteOp (regByte0 s.link.frame.shiftIn)) item v u = u := by
        rcases reads with op | op <;> rw [op] <;> rfl
      rw [asleep]
      exact ⟨rfl, h⟩
    · have awake (v : BitVec 16) (item : BitVec 5) (u : State) :
          commitFrame (byteOp (regByte0 s.link.frame.shiftIn)) item v u = u := by
        rcases reads with op | op <;> rw [op] <;> rfl
      obtain ⟨health, sleepReq, edges, bits⟩ := installPair_link (clearLinkError s)
      rw [awake]
      refine ⟨by rw [supervision, health, sleepReq]; rfl, ?_⟩
      unfold ReadsOnly
      rw [edges, bits]
      exact h

/-- R148, R155, R158, R164, R166: an instant with such a frame in the register, or without a deselect, leaves the supervisor's
registers. -/
theorem keptThrough_supervision (c : BitVec 6 × BitVec 4 × Bool × Bool) (host : Option HostAccess) (deselect : Bool) :
    KeptThrough host deselect (fun s => supervision s = c ∧ (deselect = true → ReadsOnly s.link.frame)) where
  ruled h hs := ⟨h.supervision.trans hs.1, fun hd => h.link ▸ hs.2 hd⟩
  commit hd _ hs :=
    have judged := judgeFrame_readsOnly (hs.2 hd)
    ⟨judged.1.trans hs.1, fun _ => judged.2⟩
  access {a} _ {s} hs :=
    have kept := hostAccess_supervised a s
    ⟨kept.supervision.trans hs.1, fun hd => kept.link ▸ hs.2 hd⟩

theorem instant_supervision (host : Option HostAccess) (b : Beside) (s : State) :
    supervision (instant host b false s) = supervision s :=
  ((keptThrough_supervision _ host false).instant b ⟨rfl, nofun⟩).1

/-- R160: the register of a whole frame that its sender spelled as a PEEK or a PING. -/
theorem readsOnly_whole {op : LinkOp} (hop : op = .peek ∨ op = .ping) (f : FrameBits) {r : FrameRegs}
    (he : r.edges = f.edges) (hb : r.shiftIn = shiftBits (frameSent op f) f.edges 0 0#24) : ReadsOnly r := by
  intro valid
  have whole : f.edges = 24 := by
    rw [he] at valid
    simp only [regValid, Bool.and_eq_true, decide_eq_true_eq] at valid
    exact valid.1.1
  rw [hb, whole, shiftBits_whole]
  simpa [frameSent] using hop

/-- R161: a whole PEEK or PING that no frame in progress precedes. -/
theorem linkFrame_supervision {op : LinkOp} (hop : op = .peek ∨ op = .ping) {f : FrameBits} {s : State}
    (hj : joinsFrame f s = false) : supervision (linkFrame (frameSent op f) f s) = supervision s := by
  simp only [joinsFrame, Bool.or_eq_false_iff, bne_eq_false_iff_eq] at hj
  obtain ⟨part, unselected⟩ := hj
  have opened : openFrame (frameSent op f) f.edges f.clock s =
      clockFrame (frameSent op f) f.edges f.clock (selectFrame s) := by
    rw [openFrame, if_neg (by simp [unselected])]
  have twice := clockFrame_clockFrame (frameSent op f) f.clock (Nat.le_refl f.edges) s
  have selected : (clockFrame (frameSent op f) f.edges f.clock (selectFrame s)).link.frame.selected = true := by
    rw [clockFrame_selectFrame]; rfl
  rw [linkFrame, part]
  simp only [opened]
  rw [closeFrame, if_pos selected, twice, clockFrame_selectFrame]
  refine ((keptThrough_supervision (supervision s) f.host true).instant f.beside ?_).1
  exact ⟨rfl, fun _ => readsOnly_whole hop f rfl rfl⟩

/-! ### All commands, and the millisecond -/

theorem msTick_ruled (s : State) : Ruled s (msTick s) := by
  have sampled : Ruled s (sampleSlp s) := (setInputs_act s _).ruled
  by_cases stands : SlpStands s
  · rw [msTick_stands stands]
    split
    · exact sampled
    · exact sampled.trans (awakeTick_act _).ruled
  · have followed := (setSlp_ruled s.inputs.slp.pin s).trans (followSlp_ruled _)
    rw [msTick_follows stands]
    dsimp only
    split
    · exact followed
    · exact followed.trans (awakeTick_act _).ruled

/-- R16, R178 to R181: who may change the setup. -/
theorem exec_setup {i : Instr} {s t : State} (hc : changesSetup i = false) (h : exec i s = .next t) :
    t.setup = s.setup := by
  cases hi : instantRow i with
  | false => exact (exec_ruled hc hi h).setup
  | true =>
    cases i with
    | capstanStep input header =>
      injection h with h
      exact h ▸ (keptThrough_setup s.setup hc false).instant (.step input.bots input.eots header) rfl
    | healthInputChange input high =>
      injection h with h
      exact h ▸ (keptThrough_setup s.setup hc false).instant (.input input.line input.how high) rfl
    | peek f | poke f | peekClear f | ping f =>
      injection h with h
      exact h ▸ linkFrame_setup _ hc s
    | _ => cases hi

theorem setupWriteAt_supervised (index v : Byte) (s : State) : Supervised s (setupWrite v (setIndex index s)) :=
  Supervised.trans (t := setIndex index s) ⟨rfl, rfl, rfl, rfl⟩ (setupWrite_supervised v _)

theorem conflict_supervision {access : HostAccess} {s t : State} (h : exec (.csDackConflict access) s = .next t) :
    supervision t = supervision s := by
  change execCsDackConflict access s = .next t at h
  unfold execCsDackConflict at h
  split at h
  · injection h with h
    rw [← h]
    cases access <;> rfl
  · injection h with h
    exact h ▸ (hostAccess_supervised access s).supervision

theorem rstAssertion_supervision {s t : State} (h : exec .rstAssertion s = .next t) : supervision t = supervision s := by
  change execRstAssertion s = .next t at h
  unfold execRstAssertion at h
  split at h
  · injection h with h
    rw [h]
  · injection h with h
    exact h ▸ (assertRst_supervised s).supervision

/-- R148, R155, R158, R164, R166: who may change the supervisor's registers. -/
theorem exec_supervision {i : Instr} {s t : State} (hc : changesSupervision s i = false) (h : exec i s = .next t) :
    supervision t = supervision s := by
  have written {u : State} (k : Supervised s u) (hu : .next u = (.next t : Host.Outcome State Fault Refusal)) :
      supervision t = supervision s := by
    injection hu with hu
    exact hu ▸ k.supervision
  cases hi : instantRow i with
  | true =>
    cases i with
    | capstanStep input header =>
      injection h with h
      exact h ▸ instant_supervision input.host (.step input.bots input.eots header) s
    | healthInputChange input high =>
      injection h with h
      exact h ▸ instant_supervision input.host (.input input.line input.how high) s
    | peek f =>
      injection h with h
      exact h ▸ linkFrame_supervision (.inl rfl) hc
    | ping f =>
      injection h with h
      exact h ▸ linkFrame_supervision (.inr rfl) hc
    | poke f | peekClear f => cases hc
    | _ => cases hi
  | false =>
    cases hs : changesSetup i with
    | false => exact (exec_ruled hs hi h).supervision
    | true =>
      cases i with
      | csDackConflict access => exact conflict_supervision h
      | registerWrite addr v => exact written (hostAccess_supervised (.write addr v) s) h
      | setupDataWrite v => exact written (csWrite_supervised (setupWrite_supervised v) s) h
      | faultClear v => exact written (csWrite_supervised (setupWriteAt_supervised 0x44 v) s) h
      | mapEntryCommit v => exact written (csWrite_supervised (setupWriteAt_supervised 0x69 v) s) h
      | rstAssertion => exact rstAssertion_supervision h
      | powerOn pins => cases hc
      | capstanStep | healthInputChange | peek | poke | peekClear | ping => cases hi
      | _ => cases hs

end Sys2Proof.Machine

section

open Sys2Proof Sys2Proof.Machine

/-- Settles O7, by what a command's kind lets it write. -/
theorem Sys2Proof.registersOfTheirOwners : Obligations.RegistersOfTheirOwners := by
  unfold Obligations.RegistersOfTheirOwners
  refine ⟨fun i s t h => ⟨fun hc => exec_setup hc h, fun hc => ?_⟩, fun s t empty h => ?_⟩
  · have kept := exec_supervision hc h
    simp only [supervision, Prod.mk.injEq] at kept
    exact kept
  · rw [step_idle empty] at h
    injection h with h
    have ruled := h ▸ msTick_ruled s
    exact ⟨ruled.setup, ruled.mask, ruled.control, congrArg Link.sleepReq ruled.link, ruled.powerOnFlag⟩

end
end

section
/-! SUPPORT. Every command and every millisecond keeps a sound state sound (R20, R22, R49, R97, R113, R147 to R149, R151,
R184, R185), and the statement about it. -/

namespace Sys2Proof.Machine

/-! ### The shapes of a command -/

theorem Sound.next {u t : State} (hu : Sound u) (h : (.next u : Host.Outcome State Fault Refusal) = .next t) :
    Sound t := by
  injection h with h
  exact h ▸ hu

/-- A command that does one thing under a condition and another otherwise. -/
theorem sound_either {p : Prop} [Decidable p] {u v t : State} (hu : p → Sound u) (hv : Sound v)
    (h : (if p then .next u else .next v : Host.Outcome State Fault Refusal) = .next t) : Sound t := by
  split at h
  · exact (hu ‹p›).next h
  · exact hv.next h

theorem csRead_sound {act : State → State} {s : State} (hs : Sound s) (ha : Sound (act s)) : Sound (csRead act s) := by
  unfold csRead
  split
  · exact ha
  · exact drive_sound 0 hs

theorem csWrite_sound {act : State → State} {s : State} (hs : Sound s) (ha : Sound (act s)) :
    Sound (csWrite act s) := by
  unfold csWrite
  split
  · exact ha
  · exact hs

theorem dataAccess_sound {act cs : State → State} {s : State} (hs : Sound s) (hc : Sound (cs s)) (ha : Sound (act s))
    (via : BusPath) : Sound (dataAccess via cs act s) := by
  cases via with
  | cs => exact hc
  | dack =>
    show Sound (if _ then act s else s)
    split
    · exact ha
    · exact hs

/-! ### Commands with several cases -/

theorem strobeConflict_sound {cs dack : Bool} {addr : BitVec 3} {s t : State} (hs : Sound s)
    (h : exec (.strobeConflict cs dack addr) s = .next t) : Sound t := by
  change execStrobeConflict cs dack addr s = .next t at h
  unfold execStrobeConflict at h
  repeat' split at h
  · exact hs.next h
  · exact (setDataError_sound (drive_sound 0 hs)).next h
  · exact (drive_sound 0 hs).next h

theorem csDackConflict_sound {access : HostAccess} {s t : State} (hs : Sound s)
    (h : exec (.csDackConflict access) s = .next t) : Sound t := by
  change execCsDackConflict access s = .next t at h
  unfold execCsDackConflict at h
  split at h
  · refine Sound.next ?_ h
    cases access with
    | read => exact setDataError_sound (drive_sound 0 hs)
    | write => exact setDataError_sound hs
  · exact (hostAccess_sound access hs).next h

theorem headerEvent_sound {bits : BitVec 64} {s t : State} (hs : Sound s)
    (h : exec (.headerEvent bits) s = .next t) : Sound t := by
  change execHeaderEvent bits s = .next t at h
  unfold execHeaderEvent at h
  split at h
  · exact hs.next h
  · exact (((settle_inner _).after (fieldRead_inner _ bits s)).sound hs).next h

theorem captureResult_sound {data : List Byte} {trailer : BitVec 32} {s t : State} (hs : Sound s)
    (h : exec (.captureResult data trailer) s = .next t) : Sound t := by
  change execCaptureResult data trailer s = .next t at h
  unfold execCaptureResult at h
  split at h
  · exact hs.next h
  · exact (((settle_inner _).after (captureEnds_inner _ data trailer s)).sound hs).next h

/-! ### All commands -/

theorem exec_sound {i : Instr} {s t : State} (hs : Sound s) (h : exec i s = .next t) : Sound t := by
  have order {c : Byte} (hc : orderCode i = some c) : Sound t := by
    rw [exec_order hc] at h
    exact (hostAccess_sound (.write 1 c) hs).next h
  have levels (x : Inputs) : Sound { s with inputs := x } := (setInputs_act s x).sound hs
  have powered (p : Power) : Sound { s with power := p } := ((Inner.refl s).setPower (x := p)).sound hs
  cases i with
  | dataRead via =>
    exact (dataAccess_sound hs (csRead_sound hs (dataPortRead_sound hs)) (dataPortRead_sound hs) via).next h
  | dataWrite via v =>
    exact (dataAccess_sound hs (csWrite_sound hs (dataPortWrite_sound v hs)) (dataPortWrite_sound v hs) via).next h
  | strobeConflict => exact strobeConflict_sound hs h
  | csDackConflict => exact csDackConflict_sound hs h
  | param v => exact (csWrite_sound hs (stageParam_sound v hs)).next h
  | reportRead => exact (csRead_sound hs (readReport_sound hs)).next h
  | acknowledge => exact (csWrite_sound hs (ackReport_sound hs)).next h
  | reportRewind => exact (csWrite_sound hs (rewindReport_sound hs)).next h
  | interruptEnable v => exact (csWrite_sound (act := setEnables v) hs (hs.setHost _)).next h
  | flagClear v => exact (csWrite_sound (act := clearFlags v) hs (hs.setHost _)).next h
  | registerWrite addr v => exact (hostAccess_sound (.write addr v) hs).next h
  | setupDataRead => exact (csRead_sound hs (setupRead_sound hs)).next h
  | setupDataWrite v => exact (csWrite_sound hs (setupWrite_sound v hs)).next h
  | faultClear v =>
    exact (csWrite_sound (act := fun t => setupWrite v (setIndex 0x44 t)) hs (setupWrite_sound v (hs.setHost _))).next h
  | mapEntryCommit v =>
    exact (csWrite_sound (act := fun t => setupWrite v (setIndex 0x69 t)) hs (setupWrite_sound v (hs.setHost _))).next h
  | mark | clearMap | load | unload | rewind | locate | moveRaw | spaceBlocks | spaceFences | seekEnd | readBlocks
  | verifyBlocks | writeBlocks | writeFences | eraseRemainder | unknownCode | halt | emergencyStop | deviceReset =>
    exact order rfl
  | orderDeparture => exact sound_either (fun _ => ((settle_inner _).after (depart_inner s)).sound hs) hs h
  | capstanStep input header => exact (instant_sound input.host _ false hs).next h
  | dwellExpiry | settleDelayExpiry => exact sound_either (fun _ => (waitExpired_inner s).sound hs) hs h
  | tachPulse => exact ((clearStall_inner s).sound hs).next h
  | stall =>
    have stalled := (settle_inner _).after ((stallFault_inner _).after (clearStall_inner s))
    exact sound_either (fun _ => stalled.sound hs) hs h
  | seekExhausted => exact sound_either (fun k => ((settle_inner _).after (exhaustSeek_inner k)).sound hs) hs h
  | gapLimitReached => exact ((gapReached_inner s).sound hs).next h
  | headerEvent => exact headerEvent_sound hs h
  | captureResult => exact captureResult_sound hs h
  | verifyVerdict good => exact ((strobeVerdict_inner good s).sound hs).next h
  | verdictWindowExpiry => exact ((windowCloses_inner s).sound hs).next h
  | endMarkComplete => exact ((endMarkEnds_inner s).sound hs).next h
  | repositionResume | writeWaitEnd =>
    exact sound_either (fun _ => ((settle_inner _).after (beginRun_inner s)).sound hs) hs h
  | cartridgeInserted bots eots =>
    exact (((cartinChange_act .level true _).after (setMarkers_act bots eots s)).sound hs).next h
  | cartridgeRemoved => exact ((cartinChange_act .level false s).sound hs).next h
  | healthInputChange input high => exact (instant_sound input.host _ false hs).next h
  | peek f | poke f | peekClear f | ping f => exact (linkFrame_sound _ f hs).next h
  | standby => exact sound_either (fun _ => (enterStandby_inner s).sound hs) hs h
  | sleepDeadline => exact sound_either (fun _ => (forcedSleep_inner s).sound hs) hs h
  | forcedEntry | wake => exact (followSlp_sound (levels _)).next h
  | hostPortActivation => exact (powered _).next h
  | powerOn pins => exact (powerOnReset_sound pins s).next h
  | rstAssertion => exact sound_either (fun _ => hs) (assertRst_sound hs) h
  | rstRelease => exact sound_either (fun _ => releaseRst_sound hs) hs h
  | deferredEntry => exact sound_either (fun _ => (enterSleep_inner s).sound hs) hs h

/-- Settles O4: by the command at the front of the queue, or the millisecond where none waits. -/
theorem soundKept : Obligations.SoundKept := by
  unfold Obligations.SoundKept
  intro s t hs h
  cases hp : s.pending with
  | nil =>
    rw [step_idle hp] at h
    exact (msTick_sound hs).next h
  | cons c rest =>
    rw [stepRunsFront c rest s hp] at h
    exact exec_sound (hs.setPending rest) h

end Sys2Proof.Machine
end

section
/-! SUPPORT. The departure of the head order (R27 to R29), the orders that end in the step of their departure (R32 to R37,
R107, R112, R123), and HALT and EMERGENCY STOP with no order active (R38, R39); the statements about them. -/

namespace Sys2Proof.Machine

/-! ### The immediate orders of an idle part (R34, R38, R39) -/

theorem exec_halt {s : State} (h : portActive s = true) : exec .halt s = .next (haltOrder s) :=
  congrArg _ (csWrite_active haltOrder h)

theorem exec_emergencyStop {s : State} (h : portActive s = true) : exec .emergencyStop s = .next (emergencyStop s) :=
  congrArg _ (csWrite_active emergencyStop h)

theorem haltOrder_idle {s : State} (h : s.seq.active = none) : haltOrder s = idleStop .halted 0xE1 s := by
  rw [haltOrder, h]

theorem emergencyStop_idle {s : State} (h : s.seq.active = none) :
    emergencyStop s = idleStop .emergencyStopped 0xE2 s := by
  rw [emergencyStop, h]

/-! ### The head order (R27, R28) -/

/-- R27, R180: the conditions under which the head departs. -/
theorem headReady_iff {e : QueueEntry} {rest : List QueueEntry} {s : State} (hq : s.seq.queue = e :: rest) :
    headReady s = true ↔ s.seq.active = none ∧ s.reports.stored.length ≤ 4 ∧ s.power.state ≠ .sleepPending ∧
      s.power.state ≠ .sleep ∧ s.inputs.rstLow = false ∧
      ¬ ((orderKind e.code).any OrderKind.isWrite = true ∧ s.banks.anyRead = true) := by
  simp only [headReady, hq, mayStart, sleepSeen, Bool.and_eq_true, Bool.not_eq_true', Bool.and_eq_false_iff,
    Bool.or_eq_false_iff, beq_eq_false_iff_ne, decide_eq_true_eq, Option.isNone_iff_eq_none,
    Classical.not_and_iff_not_or_not, Bool.not_eq_true, and_assoc, ne_eq]
  rfl

/-- R28: the part right after the head has taken the order slot, the AUTO clears made. -/
def departing (e : QueueEntry) (rest : List QueueEntry) (s : State) : State := autoClearEntry e (activate e rest s)

theorem departing_setup (e : QueueEntry) (rest : List QueueEntry) (s : State) :
    (departing e rest s).setup = s.setup := (autoClearEntry_inner e (activate e rest s)).same.setup

theorem departEntry_fails {e : QueueEntry} {rest : List QueueEntry} {s : State} {c : Cause}
    (h : startCheck (departing e rest s) s.setup e = some c) :
    departEntry e rest s = finish (raise c (departing e rest s)) := by
  rw [← departing_setup e rest s] at h
  unfold departing at h ⊢
  rw [departEntry]
  simp only [h, endsAtStart]

theorem departEntry_begins {e : QueueEntry} {rest : List QueueEntry} {s : State} {k : OrderKind}
    (h : startCheck (departing e rest s) s.setup e = none) (hk : orderKind e.code = some k) :
    departEntry e rest s = beginOrder k e.params (departing e rest s) := by
  rw [← departing_setup e rest s] at h
  unfold departing at h ⊢
  rw [departEntry]
  simp only [h, hk]

theorem exec_orderDeparture_waits {s : State} (h : ¬ headReady s = true) : exec .orderDeparture s = .next s := if_neg h

theorem exec_orderDeparture_departs {e : QueueEntry} {rest : List QueueEntry} {s : State} (h : headReady s = true)
    (hq : s.seq.queue = e :: rest) : exec .orderDeparture s = .next (settle (departEntry e rest s)) := by
  refine (if_pos h).trans ?_
  rw [depart, hq]

/-- Settles O29: the conditions are those of `headReady`, and the departure is `departEntry`. -/
theorem orderDeparture : Obligations.OrderDeparture := by
  unfold Obligations.OrderDeparture
  intro e rest s hq
  refine ⟨fun late => ?_, fun due => ⟨fun c hc => ?_, fun k hc hk => ?_⟩⟩
  · exact exec_orderDeparture_waits (mt (headReady_iff hq).1 late)
  · rw [exec_orderDeparture_departs ((headReady_iff hq).2 due) hq, departEntry_fails hc]
    rfl
  · rw [exec_orderDeparture_departs ((headReady_iff hq).2 due) hq, departEntry_begins hc hk]
    rfl

/-! ### An order written to an idle part (R21, R22, R28) -/

/-- R22, R28: the part right after a queued order written to it has departed. -/
def departed (code : Byte) (s : State) : State :=
  { s with
    seq := departedSeq code (newActive s (newEntry code s)) s
    power := { s.power with standbyTimer := 0 } }

theorem Ready.acceptOrder_queue {s : State} (h : Ready s) (code : Byte) :
    (acceptOrder code s).seq.queue = [newEntry code s] := by
  simp [acceptOrder, h.idle.2.1]

theorem Ready.running {s : State} (h : Ready s) : s.motion.state ≠ .inhibited := by simp [h.rest.1]

/-- R28, R154: no fault is present, so no latch is cleared. -/
theorem Ready.departing_eq {s : State} (h : Ready s) (code : Byte) :
    departing (newEntry code s) [] (acceptOrder code s) = departed code s :=
  autoClearEntry_id (s := departed code s) _ h.healthy.1 h.running

/-- R27: an order written to an idle part departs at once. -/
theorem Ready.headReady_accepted {s : State} {code : Byte} (h : Ready s)
    (hw : (orderKind code).any OrderKind.isWrite = true → s.banks.anyRead = false) :
    headReady (acceptOrder code s) = true := by
  have low : s.inputs.rstLow = false := h.dormant.free
  refine (headReady_iff (h.acceptOrder_queue code)).2 ⟨h.idle.1, h.reports, ?_, ?_, low, fun k => ?_⟩
  · show s.power.state ≠ _
    simp [h.awake]
  · show s.power.state ≠ _
    simp [h.awake]
  · exact absurd (hw k.1) (by simpa using k.2)

/-- R22, R27, R28: an order written to an idle part, whose departure leaves nothing due. -/
theorem Ready.exec_departs {i : Instr} {code : Byte} {s t : State} (h : Ready s) (hi : queuedCode i = some code)
    (hw : (orderKind code).any OrderKind.isWrite = true → s.banks.anyRead = false)
    (ht : departEntry (newEntry code s) [] (acceptOrder code s) = t) (hn : Steady t) : exec i s = .next t := by
  have awake : deferredDue (acceptOrder code s) = false := by
    simp [deferredDue, acceptOrder, h.awake]
  have departs : depart (acceptOrder code s) = t := by rw [depart, h.acceptOrder_queue]; exact ht
  have next := settleStep_depart (s := acceptOrder code s) h.events awake (h.headReady_accepted hw)
  rw [departs] at next
  rw [exec_queued hi h.port, offerOrder_room code (by simp [h.idle.2.1]), settle_two next (settleStep_steady hn)]

theorem Ready.departEntry_fails {code : Byte} {c : Cause} {s : State} (h : Ready s)
    (hc : startCheck s s.setup (newEntry code s) = some c) :
    departEntry (newEntry code s) [] (acceptOrder code s) = endsAtStart c (departed code s) := by
  rw [Machine.departEntry_fails (c := c), h.departing_eq]
  · rfl
  · rw [h.departing_eq, ← hc]
    exact startCheck_congr _ _ rfl rfl

theorem Ready.departEntry_begins {code : Byte} {k : OrderKind} {s : State} (h : Ready s)
    (hc : startCheck s s.setup (newEntry code s) = none) (hk : orderKind code = some k) :
    departEntry (newEntry code s) [] (acceptOrder code s) = beginOrder k s.seq.staging (departed code s) := by
  rw [Machine.departEntry_begins (k := k), h.departing_eq]
  · rfl
  · rw [h.departing_eq, ← hc]
    exact startCheck_congr _ _ rfl rfl
  · exact hk

/-! ### An order that ends as it departs (R33, R34, R36, R37) -/

/-- R33, R34: the part after such an order has ended with a cause, the report of the ending still to be pushed. -/
def endedPart (c : Cause) (place : Place) (s : State) : State :=
  { s with
    seq := endedSeq s, place := place, power := { s.power with standbyTimer := 0 }
    banks := if c = .success then s.banks
      else { s.banks with a := s.banks.a.afterDiscard, b := s.banks.b.afterDiscard } }

/-- R36, R37, R43: the report of that ending. -/
def endedReport (c : Cause) (code : Byte) (place : Place) (s : State) : Report :=
  { baseReport c (endedPart c place s) with
    unsolicited := false, tag := s.seq.tag, code := code
    stage := if c = .success then .done else .startChecks
    residual := BitVec.ofNat 16 (if c = .success then 0 else startResidual code s.seq.staging c) }

/-- R33: the part after such an order has ended. -/
def endedAtStart (c : Cause) (code : Byte) (place : Place) (s : State) : State :=
  { endedPart c place s with reports := s.reports.push (endedReport c code place s) }

theorem endedAtStart_steady {s : State} (h : Ready s) (c : Cause) (code : Byte) (place : Place) :
    Steady (endedAtStart c code place s) := by
  refine ⟨h.events, ?_, rfl⟩
  show s.power.state ≠ _
  simp [h.awake]

/-- R37: the Residual of an order that has done nothing and ends in stage 0. -/
theorem residual_startChecks {s : State} {a : Active} {c : Cause} (hs : a.stream = .fresh) (hf : a.scan = .fresh)
    (hc : c ≠ .success) :
    residual s a { cause := c, stage := .startChecks } = startResidual a.entry.code a.entry.params c := by
  unfold residual startResidual
  by_cases untrusted : c = .paramError ∨ c = .illegalOrder
  · rw [if_pos untrusted]
    rcases untrusted with rfl | rfl <;> rfl
  · rw [if_neg untrusted]
    simp only [Active.kind]
    obtain ⟨hp, hi⟩ := not_or.1 untrusted
    split
    · contradiction
    · contradiction
    · contradiction
    · cases orderKind a.entry.code with
      | none => rfl
      | some k => cases k <;> simp [residualOf, hs, hf, Stream.fresh, Scan.fresh]

/-- R33, R34, R36: an order that ends in stage 0 as it departs into an idle part. -/
theorem endsAtStart_departed {s : State} (h : Ready s) {c : Cause} {code : Byte} {place : Place}
    (hc : place.cart = s.place.cart) (hu : orderKind code = some .unload → c ≠ .success) :
    endsAtStart c { departed code s with place := place } = endedAtStart c code place s := by
  let a : Active := { newActive s (newEntry code s) with cause := some { cause := c, stage := .startChecks } }
  let w : State := { departed code s with seq := departedSeq code a s, place := place }
  have raised : raise c { departed code s with place := place } = w := rfl
  have healthy : Healthy w := ⟨h.healthy.1, (conditions_congr (s := s) (t := w) rfl rfl hc).symm ▸ h.healthy.2⟩
  have rest : w.place.cart ≠ .loading := fun k => h.cartridge (hc.symm.trans k)
  have cause (k : c ≠ .success) : endCause a = { cause := c, stage := .startChecks } := if_neg k
  rw [endsAtStart, raised, finish_rest (s := w) (a := a) rfl h.rest.1 h.rest.2 rest rfl healthy]
  · by_cases success : c = .success
    · subst success
      rfl
    · have discarded : endDiscard a w = discard w := by rw [endDiscard, cause success, if_neg success]
      have count : discardedBy a w = 0 := by rw [discardedBy, cause success, if_neg success]; rfl
      have undone : residual (discard w) a { cause := c, stage := .startChecks } =
          startResidual code s.seq.staging c := residual_startChecks rfl rfl success
      have report : endReport (discard w) a 0 = endedReport c code place s := by
        simp only [endReport, cause success, undone, endedReport, endedPart, if_neg success]
        rfl
      have part : endedPart c place s = clearActive (discard w) := by
        simp only [endedPart, if_neg success]
        rfl
      rw [discarded, count, report, endedAtStart, part]
      rfl
  · intro ⟨unload, success⟩
    have failed := hu unload
    rw [cause failed] at success
    exact failed success

/-- R29: no start check answers SUCCESS. -/
theorem startCheck_ne_success {s : State} {p : Setup} {e : QueueEntry} {c : Cause} (h : startCheck s p e = some c) :
    c ≠ .success := by
  rintro rfl
  unfold startCheck knownCheck at h
  repeat' split at h
  all_goals cases h

/-- Settles O24: the order departs at once, and its ending leaves nothing due. -/
theorem failedStartCheckEnds : Obligations.FailedStartCheckEnds := by
  unfold Obligations.FailedStartCheckEnds
  intro i code c s hi h hc hw
  have failed := startCheck_ne_success hc
  have ends := (h.departEntry_fails hc).trans
    (endsAtStart_departed h (place := s.place) rfl fun _ => failed)
  rw [h.exec_departs hi hw ends (endedAtStart_steady h c code s.place)]
  simp only [endedAtStart, endedReport, endedPart, if_neg failed]
  rfl

/-- R29, R32: an order that needs nothing of the part passes its start checks. -/
theorem startCheck_mark {s : State} {code : Byte} (h : s.seq.staging = [])
    (hk : orderKind code = some .mark ∨ orderKind code = some .clearMap) :
    startCheck s s.setup (newEntry code s) = none := by
  rcases hk with hk | hk <;>
    simp [startCheck, newEntry, hk, knownCheck, h, paramsOk, OrderKind.paramCount, stateOk, inhibited, writeForbidden,
      boundsOk, OrderKind.isMotion, OrderKind.isWrite, OrderKind.usesBounds]

/-- R107, R112, R123: an order that meets a known EOD at its start ends there. -/
theorem beginOrder_eod {k : OrderKind} {c : Cause} {p : Position} {params : List Byte} {s : State}
    (hp : s.place.position = some p) (he : p.eod = true) (hc : eodCause k params = some c) :
    beginOrder k params s = endsAtStart c s := by
  have space : (if 0 < paramSpace params then some Cause.endOfData else none) = some c →
      beginSpace params p s = endsAtStart c s := by
    intro h
    split at h
    · injection h with h
      simp [beginSpace, *]
    · cases h
  cases k <;> simp only [eodCause, reduceCtorEq, Option.some.injEq] at hc <;>
    simp only [beginOrder, fromPosition, hp]
  case spaceBlocks | spaceFences => exact space hc
  case seekEnd => subst hc; simp [beginSeekEnd, he]
  case readBlocks | verifyBlocks => subst hc; simp [beginRead, he]

/-- Only an order that moves the tape meets an EOD. -/
theorem eodCause_kind {k : OrderKind} {params : List Byte} {c : Cause} (h : eodCause k params = some c) :
    k.isWrite = false ∧ k ≠ .unload := by
  cases k <;> simp_all [eodCause, OrderKind.isWrite]

/-- R32: MARK and CLEAR MAP, by what they leave of the cartridge's place. -/
theorem Ready.exec_marks {i : Instr} {code : Byte} {k : OrderKind} {place : Place} {s : State} (h : Ready s)
    (hs : s.seq.staging = []) (hi : queuedCode i = some code) (hk : orderKind code = some k)
    (hm : k = .mark ∨ k = .clearMap) (hc : place.cart = s.place.cart)
    (hb : beginOrder k s.seq.staging (departed code s) = endsAtStart .success { departed code s with place := place }) :
    exec i s = .next (endedAtStart .success code place s) := by
  have kind : orderKind code = some .mark ∨ orderKind code = some .clearMap := by rw [hk]; simpa using hm
  have unload : orderKind code ≠ some .unload := by rcases kind with k | k <;> simp [k]
  have read : (orderKind code).any OrderKind.isWrite = true → s.banks.anyRead = false := by
    rcases kind with k | k <;> simp [k, OrderKind.isWrite]
  refine h.exec_departs hi read ?_ (endedAtStart_steady h _ _ _)
  rw [h.departEntry_begins (startCheck_mark hs kind) hk, hb]
  exact endsAtStart_departed h hc fun k => absurd k unload

/-- Settles O25: each order departs at once, and its ending leaves nothing due. -/
theorem endsAtDeparture : Obligations.EndsAtDeparture := by
  unfold Obligations.EndsAtDeparture
  refine ⟨fun s h hs => ⟨?_, ?_⟩, fun i code k c p s hi hk h hc hp he hend => ?_⟩
  · exact h.exec_marks (place := s.place) hs rfl rfl (.inl rfl) rfl rfl
  · exact h.exec_marks (place := mapClear s.place) hs rfl rfl (.inr rfl) rfl rfl
  · obtain ⟨reads, kept⟩ := eodCause_kind hend
    have ends : departEntry (newEntry code s) [] (acceptOrder code s) = endedAtStart c code s.place s := by
      rw [h.departEntry_begins hc hk, beginOrder_eod (s := departed code s) hp he hend]
      exact endsAtStart_departed h (place := s.place) rfl fun k => absurd (Option.some.inj (hk.symm.trans k)) kept
    rw [h.exec_departs hi (by simp [hk, reads]) ends (endedAtStart_steady h c code s.place)]
    rfl

end Sys2Proof.Machine

section

open Sys2Proof Sys2Proof.Machine

/-- Settles O30, by the immediate order written. -/
theorem Sys2Proof.idleStop : Obligations.IdleStop := by
  unfold Obligations.IdleStop
  rintro i c code s hp ha (⟨rfl, rfl, rfl⟩ | ⟨rfl, rfl, rfl⟩)
  · rw [exec_halt hp, haltOrder_idle ha]
    rfl
  · rw [exec_emergencyStop hp, emergencyStop_idle ha]
    rfl

end
end

section
/-! SUPPORT. The ending of an order in a part whose faults are known (R33, R34), HALT with an order active (R38, R52, R100,
R130, R140), and the statement about it. -/

namespace Sys2Proof.Machine

/-! ### Endings (R33, R34, R97) -/

theorem endRequest_eq (s : State) : endRequest s = { s with
    motion := (endRequest s).motion, events := (endRequest s).events
    place := { s.place with position := (endRequest s).place.position } } := by
  unfold endRequest
  split <;> rfl

theorem endRequest_rest {s : State} (h : s.motion.waitingAtRest = false) : endRequest s = s := if_neg (by simp [h])

theorem takeFinal_eq (a : Active) (s : State) : takeFinal a s = { s with
    place := { s.place with position := (takeFinal a s).place.position } } := by
  unfold takeFinal
  split <;> rfl

/-- R94, R102: an ending with a cause other than SUCCESS only takes back a LOAD. -/
theorem endCartridge_failed {a : Active} (hc : (endCause a).cause ≠ .success) (s : State) :
    endCartridge a s = { s with
      place := { s.place with cart := if s.place.cart = .loading then .inserted else s.place.cart } } := by
  unfold endCartridge
  split
  · rfl
  · rw [if_neg fun k => hc k.2]

theorem preFin_inner (s : State) (a : Active) : Inner s (preFin s a) :=
  (clearActive_inner _).after ((pushReport_inner _ _).after ((endDiscard_inner _ _).after
    ((endCartridge_inner _ _).after ((takeFinal_inner _ _).after (endRequest_inner s)))))

/-- R43: the report of an ending with a cause other than SUCCESS. -/
def failedReport (s : State) (a : Active) : Report :=
  endReport (discard (endCartridge a (takeFinal a (endRequest s)))) a s.seq.queue.length

/-- R33, R34, R97: the part after an ending with a cause other than SUCCESS, before the faults are judged again. -/
theorem preFin_failed {s : State} {a : Active} (hc : (endCause a).cause ≠ .success) : preFin s a = { s with
    seq := { s.seq with queue := [], active := none, haltPending := false }
    reports := s.reports.push (failedReport s a)
    banks := { s.banks with a := s.banks.a.afterDiscard, b := s.banks.b.afterDiscard }
    motion := (endRequest s).motion, events := (endRequest s).events
    place := { s.place with
      cart := if s.place.cart = .loading then .inserted else s.place.cart
      position := (takeFinal a (endRequest s)).place.position } } := by
  have discarded (u : State) : endDiscard a u = discard u := if_neg hc
  have count (u : State) : discardedBy a u = u.seq.queue.length := if_neg hc
  unfold preFin failedReport
  simp only [discarded, count, endCartridge_failed hc]
  rw [takeFinal_eq a (endRequest s), endRequest_eq s]
  rfl

/-- R33: an ending in a sound part whose conditions bring no fault and take none. -/
theorem finish_known {s : State} {a : Active} (hs : Sound s) (ha : s.seq.active = some a)
    (hh : (preFin s a).health = s.health)
    (hp : presentFor s.health (conditions (preFin s a)) = s.health.present) : finish s = preFin s a := by
  have sound := (preFin_inner s a).sound hs
  rw [finish_eq ha, faultBits_judged sound.faults (by rw [hh, hp]), inhibitController_known sound.inhibit]

/-- R147: an ending with a cause other than SUCCESS moves no condition: a cartridge taken back was not LOADED. -/
theorem preFin_conditions {s : State} {a : Active} (hc : (endCause a).cause ≠ .success) :
    conditions (preFin s a) = conditions s := by
  have loaded : ((if s.place.cart = .loading then .inserted else s.place.cart) == CartState.loaded) =
      (s.place.cart == .loaded) := by cases s.place.cart <;> rfl
  rw [preFin_failed hc]
  simp only [conditions, loaded]

/-- R33, R34, R97: an ending with a cause other than SUCCESS, in a sound part whose conditions are judged already. -/
theorem finish_failed {s : State} {a : Active} (hs : Sound s) (ha : s.seq.active = some a)
    (hc : (endCause a).cause ≠ .success) (hp : presentFor s.health (conditions s) = s.health.present) :
    finish s = preFin s a := by
  refine finish_known hs ha ?_ (by rw [preFin_conditions hc, hp])
  rw [preFin_failed hc]

/-! ### HALT with an order active (R38, R100, R130, R140) -/

theorem haltOrder_active {s : State} {a : Active} (h : s.seq.active = some a) : haltOrder s = haltActive a s := by
  rw [haltOrder, h]

/-- R38: HALT-pending set. -/
def halting (s : State) : State := { s with seq := { s.seq with haltPending := true } }

/-- R38: a HALT that no stop waits before looks for its safe point. -/
theorem haltActive_free {s : State} {a : Active} (h : stopWanted s a = false) :
    haltActive a s = settle (interrupt (halting s)) := if_neg (by simp [h])

/-- R52, R97, R100: an order without a cause that a HALT stops in its stage. -/
def Active.halted (a : Active) : Active :=
  { a with
    cause := some { cause := .halted, stage := a.stage }, final := haltFinal a, phase := .ending, stage := .settle }

theorem stopWanted_false {s : State} {a : Active} (h : stopWanted s a = false) :
    s.seq.haltPending = false ∧ a.lockPending = false := by
  simpa [stopWanted] using h

/-- R38, R100: the part as a HALT takes effect, before the controller is asked to stop. -/
def haltedHere (a : Active) (s : State) : State :=
  { s with seq := { s.seq with haltPending := true, active := some a.halted } }

theorem stopHere_halting {s : State} {a : Active} (ha : s.seq.active = some a) (hc : a.cause = none)
    (h : stopWanted s a = false) : stopHere a (halting s) = askStop (haltedHere a s) := by
  obtain ⟨-, lock⟩ := stopWanted_false h
  simp [stopHere, stopToEnd, setFinal, raiseStop, setPhase, onActive, raise, halting, ha, stopWanted, stopCause, lock,
    outranks, hc, Active.halted, haltedHere]

/-- R38: the phases in which a HALT takes effect at once, and where it waits. -/
theorem interrupt_halting {s : State} {a : Active} (ha : s.seq.active = some a) :
    (a.phase = .travel ∨ a.phase = .repWait ∨ (a.phase = .scan ∧ s.framer.capture = none) →
      interrupt (halting s) = stopHere a (halting s)) ∧
    (a.phase = .write ∨ (a.phase = .scan ∧ s.framer.capture.isSome = true) →
      interrupt (halting s) = halting s) := by
  constructor
  · rintro (h | h | ⟨h, hf⟩) <;> simp [interrupt, halting, ha, stopWanted, h]
    simp [hf]
  · rintro (h | ⟨h, hf⟩) <;> simp [interrupt, halting, ha, stopWanted, h]
    exact fun k => absurd hf (by simp [k])

theorem exec_halt_free {s : State} {a : Active} (hp : portActive s = true) (ha : s.seq.active = some a)
    (h : stopWanted s a = false) : exec .halt s = .next (settle (interrupt (halting s))) := by
  rw [exec_halt hp, haltOrder_active ha, haltActive_free h]

/-- R38, R81: a HALT that takes effect at once in a moving transport begins a controlled stop. -/
theorem exec_halt_underway {s : State} {a : Active} (hp : portActive s = true) (h : Underway s a)
    (hi : interrupt (halting s) = stopHere a (halting s)) :
    exec .halt s = .next { haltedHere a s with motion := s.motion.halting } := by
  have stopping : askStop (haltedHere a s) = { haltedHere a s with motion := s.motion.halting } :=
    askStop_under (a := a.halted) rfl h.above h.moving h.free h.anchored
  have settled : settle { haltedHere a s with motion := s.motion.halting } = _ :=
    settle_waiting (a := a.halted) rfl h.events ⟨by simp [Active.halted], by simp [Active.halted]⟩
  rw [exec_halt_free hp h.active h.noStop, hi, stopHere_halting h.active h.cause h.noStop, stopping, settled]

theorem isStream_of_isRead {a : Active} (h : a.isRead = true) : a.isStream = true := by
  unfold Active.isRead at h
  unfold Active.isStream
  cases hk : a.kind <;> simp_all [OrderKind.isStream]

/-! ### Events that settle (R53, R92; log 6) -/

theorem settleFor_event {s : State} {e : MotionEvent} {rest : List MotionEvent} (h : s.events = e :: rest) (n : Nat) :
    settleFor (n + 1) s = settleFor n (onEvent e { s with events := rest }) := by
  simp [settleFor, settleStep, h]

theorem settleFor_steady {s : State} (h : Steady s) (n : Nat) : settleFor n s = s := by
  cases n with
  | zero => rw [settleFor, ← h.1]
  | succ n => rw [settleFor, settleStep_steady h]

/-! ### A HALT in a wait at rest (R127, R130) -/

/-- R38, R130: the part right after a HALT in a reposition wait has stopped the controller, its stopped-at taken. -/
def haltedWait (a : Active) (s : State) : State := { haltedHere a s with motion := (stopAtRest s.motion false).motion }

theorem askStop_stopped {s : State} (h : s.motion.state = .stopped) (hA : Anchored s) :
    askStop s = { s with
      motion := (stopAtRest s.motion false).motion, events := s.events ++ [.stoppedAt s.motion.tick 0 false] } := by
  have place := anchored_place hA (stopAtRest s.motion false).motion rfl
  simp only [askStop, requestStop, h, handOver, place]
  rfl

theorem onCapture_idle {s : State} (h : s.framer.capture = none) (good : Bool) (data : List Byte) :
    onCapture good data s = s := by
  rw [onCapture, h]

/-- R52: a second stop of the same kind raises nothing. -/
theorem raiseStop_haltedWait {s : State} {a : Active} (h : a.lockPending = false) :
    raiseStop (haltedWait a s) = haltedWait a s := by
  have cause : stopCause a.halted = .halted := if_neg (by simp [Active.halted, h])
  have raised : raiseStop (haltedWait a s) = raise (stopCause a.halted) (haltedWait a s) := rfl
  rw [raised, cause, raise_some (a := a.halted) .halted rfl]
  rfl

/-- R127, R130: a reading order in its wait at rest in a reposition cycle, no stop waiting, in a part whose faults are
known. -/
structure ReadWaits (s : State) (a : Active) : Prop where
  sound : Sound s
  active : s.seq.active = some a
  noStop : stopWanted s a = false
  phase : a.phase = .repWait
  read : a.isRead = true
  cause : a.cause = none
  events : s.events = []
  awake : s.power.state ≠ .sleepPending
  cartridge : s.place.cart ≠ .loading
  capture : s.framer.capture = none
  rest : s.motion.state = .stopped
  judged : presentFor s.health (conditions s) = s.health.present

section

variable {s : State} {a : Active}

theorem ReadWaits.haltFinal (h : ReadWaits s a) : haltFinal a = none := if_pos (isStream_of_isRead h.read)

theorem ReadWaits.haltedWait_sound (h : ReadWaits s a) : Sound (haltedWait a s) := by
  have pending : Inner s (haltedHere a s) := (Inner.refl s).setSeq fun k => ⟨k.1, k.2⟩
  refine (pending.setMotion (m := (stopAtRest s.motion false).motion) rfl ?_ fun _ k => ?_).sound h.sound
  · simp [stopAtRest, haltedHere, h.rest]
  · simp [stopAtRest] at k

/-- R83: the controller at rest is asked to stop, and hands its rest. -/
theorem ReadWaits.interrupt_eq (h : ReadWaits s a) : interrupt (halting s) =
    { haltedWait a s with events := [.stoppedAt s.motion.tick 0 false] } := by
  rw [(interrupt_halting h.active).1 (.inr (.inl h.phase)), stopHere_halting h.active h.cause h.noStop,
    askStop_stopped (s := haltedHere a s) h.rest h.sound.anchored]
  simp only [haltedHere, haltedWait, h.events, List.nil_append]

/-- R38, R130: the rest that the stop brings ends the order. -/
theorem ReadWaits.onStopped_eq (h : ReadWaits s a) : onStopped (haltedWait a s) = finish (haltedWait a s) := by
  have final : Machine.haltFinal a.halted = none := if_pos (isStream_of_isRead (a := a.halted) h.read)
  have active : (haltedWait a s).seq.active = some a.halted := rfl
  have wanted : stopWanted (haltedWait a s) a.halted = true := rfl
  have uncut : cutStands (haltedWait a s) = false := by simp [cutStands, haltedWait, haltedHere, h.events]
  have unchanged : setFinal none (haltedWait a s) = haltedWait a s := by
    rw [setFinal, onActive_some _ active]
    simp [haltedWait, haltedHere, Active.halted, h.haltFinal]
  have raised := raiseStop_haltedWait (s := s) (stopWanted_false h.noStop).2
  unfold onStopped
  rw [onCapture_idle (s := haltedWait a s) h.capture]
  simp only [active, uncut, Bool.false_eq_true, if_false, wanted, if_true, final, raised, unchanged]

/-- R33, R130: the part after a reading order has ended in its wait at rest. -/
def haltedEnd (a : Active) (s : State) : State :=
  { s with
    seq := { s.seq with queue := [], active := none, haltPending := false }
    reports := s.reports.push (failedReport (haltedWait a s) a.halted)
    banks := { s.banks with a := s.banks.a.afterDiscard, b := s.banks.b.afterDiscard }
    motion := (stopAtRest s.motion false).motion }

theorem ReadWaits.finish_eq (h : ReadWaits s a) : finish (haltedWait a s) = haltedEnd a s := by
  have failed : (endCause a.halted).cause ≠ .success := by simp [endCause, Active.halted]
  have final : a.halted.final = none := h.haltFinal
  have rest : endRequest (haltedWait a s) = haltedWait a s := endRequest_rest rfl
  have kept : takeFinal a.halted (haltedWait a s) = haltedWait a s := by rw [takeFinal, final]
  have cart : (if (haltedWait a s).place.cart = .loading then .inserted else (haltedWait a s).place.cart) =
      s.place.cart := if_neg h.cartridge
  rw [finish_failed h.haltedWait_sound rfl failed h.judged, preFin_failed failed, rest, kept, cart]
  rfl

/-- R38, R130: a HALT in a reposition wait at rest ends the reading order in the same step. -/
theorem ReadWaits.exec_halt (h : ReadWaits s a) (hp : portActive s = true) : exec .halt s = .next (haltedEnd a s) := by
  have steady : Steady (haltedEnd a s) := ⟨h.events, h.awake, rfl⟩
  have next := settleFor_event (s := interrupt (halting s)) (by rw [h.interrupt_eq]) 63
  have same : { interrupt (halting s) with events := [] } = haltedWait a s := by
    rw [h.interrupt_eq]
    simp only [haltedWait, haltedHere, h.events]
  have ends : onEvent (.stoppedAt s.motion.tick 0 false) (haltedWait a s) = haltedEnd a s :=
    h.onStopped_eq.trans h.finish_eq
  rw [same, ends, settleFor_steady steady] at next
  rw [exec_halt_free hp h.active h.noStop]
  exact congrArg _ next

/-- R37: the Residual of a reading order that a HALT ends. -/
theorem residual_read {c : CauseAt} (hr : a.isRead = true) (hc : c.cause = .halted) :
    residual s a c = paramCount a.entry.params - a.stream.done := by
  unfold Active.isRead at hr
  unfold residual
  rw [hc]
  cases hk : a.kind with
  | none => rw [hk] at hr; cases hr
  | some k => cases k <;> simp_all [OrderKind.isRead, residualOf]

theorem failedReport_residual (hr : a.isRead = true) (hc : (endCause a).cause = .halted) :
    (failedReport s a).residual = BitVec.ofNat 16 (paramCount a.entry.params - a.stream.done) :=
  congrArg (BitVec.ofNat 16) (residual_read hr hc)

end

end Sys2Proof.Machine

section

open Sys2Proof Sys2Proof.Machine

/-- Settles O31, by where the order stands. -/
theorem Sys2Proof.haltActive : Obligations.HaltActive := by
  unfold Obligations.HaltActive
  intro a s hp ha
  obtain ⟨atOnce, waits⟩ := interrupt_halting ha
  refine ⟨fun h => ?_, fun h phase stage stream => ?_, fun h phase stage read capture => ?_, fun hs h phase => ?_,
    fun sound h phase stage read cause events awake cartridge capture rest judged => ?_⟩
  · rw [exec_halt hp, haltOrder_active ha, Machine.haltActive, if_pos h]
  · have final : haltFinal a = some none := by simp [haltFinal, stream, stage]
    rw [exec_halt_underway hp h (atOnce (.inl phase)), haltedHere, Active.halted, final, stage]
  · have final : haltFinal a = none := if_pos (isStream_of_isRead read)
    rw [exec_halt_underway hp h (atOnce (.inr (.inr ⟨phase, capture⟩))), haltedHere, Active.halted, final, stage]
  · have due := hs.2.2
    rw [ha] at due
    rw [exec_halt_free hp ha h, waits phase, settle_waiting (s := halting s) ha hs.1 due]
    rfl
  · have waiting : ReadWaits s a :=
      ⟨sound, ha, h, phase, read, cause, events, awake, cartridge, capture, rest, judged⟩
    refine ⟨failedReport (haltedWait a s) a.halted, rfl, stage, rfl, failedReport_residual read rfl, ?_⟩
    rw [waiting.exec_halt hp]
    simp only [haltedEnd, stopAtRest, rest]

end
end

section
/-! SUPPORT. EMERGENCY STOP with an order active (R34, R39, R52, R84, R97, R100), and the statement about it. -/

namespace Sys2Proof.Machine

/-! ### An order cut short (R39, R52, R53, R65) -/

theorem cutCapture_idle {s : State} (h : s.framer.capture = none) : cutCapture s = s := by
  rw [cutCapture, h]

/-- R39, R52, R53: an order as a cause cuts it short. -/
def Active.cut (c : Cause) (a : Active) : Active :=
  { a with cause := if outranks c a.cause then some { cause := c, stage := a.stage } else a.cause, final := haltFinal a }

theorem setFinal_raise {s : State} {a : Active} (c : Cause) (ha : s.seq.active = some a) :
    setFinal (haltFinal a) (raise c s) = { s with seq := { s.seq with active := some (a.cut c) } } := by
  rw [raise_some c ha, setFinal, onActive, Active.cut]
  split <;> rfl

theorem cutShort_eq {s : State} {a : Active} (c : Cause) (ha : s.seq.active = some a) : cutShort c s =
    { cutCapture (dropGate s) with
      seq := { s.seq with active := some (a.cut c) }, events := s.events ++ [.orderEnds] } := by
  have cut := cut_same (dropGate s)
  have active : (cutCapture (dropGate s)).seq.active = some a := by rw [cut.seq]; exact ha
  rw [cutShort, ha]
  simp only [setFinal_raise c active, cut.seq, cut.events]
  rfl

/-- R52: the cause with which an order ends that an EMERGENCY STOP cuts short. -/
theorem cut_endCause (a : Active) :
    (endCause (a.cut .emergencyStopped)).cause = (if outranks .emergencyStopped a.cause then .emergencyStopped
      else (a.cause.map CauseAt.cause).getD .success) ∧ (endCause (a.cut .emergencyStopped)).cause ≠ .success := by
  cases hc : a.cause with
  | none => simp [endCause, Active.cut, hc, outranks]
  | some q =>
    by_cases outranked : outranks .emergencyStopped (some q) = true
    · simp [endCause, Active.cut, hc, outranked]
    · have higher : q.cause ≠ .success := fun k => outranked (by simp [outranks, k, causeRank])
      simp [endCause, Active.cut, hc, outranked, higher]

/-! ### What an EMERGENCY STOP leaves as the order ends (R39, R84) -/

/-- R84: a moving transport held. -/
theorem holdMotion_moving {m : Motion} (h : m.moving = true) : holdMotion false m =
    { motion := { m with
        state := .stopped, rate := 0, request := none, waiting := none, ramp := 0, decel := .none, seek := .none
        refValid := false, stallCount := 0, steady := 0, settling := false, settleTimer := 0
        lastOvershoot := BitVec.ofNat 16 m.overshoot }
      events := [.stoppedAt m.tick m.overshoot true] } := by
  have runs : (m.state == .inhibited) = false := beq_eq_false_iff_ne.2 (moving_runs h)
  simp [holdMotion, h, runs]

/-- R84: the transport held where it moves. -/
def stilled (s : State) : State := if s.motion.moving then hold false s else s

theorem stilled_moving {s : State} (h : s.motion.moving = true) :
    stilled s = cutCapture (dropGate (handOver (holdMotion false s.motion) s)) := by
  rw [stilled, if_pos h, hold, if_pos h]

theorem stilled_seq (s : State) : (stilled s).seq = s.seq := by
  unfold stilled
  split
  · exact (hold_rest false s).2.1
  · rfl

theorem stilled_motion (s : State) :
    (stilled s).motion = if s.motion.moving then (holdMotion false s.motion).motion else s.motion := by
  unfold stilled
  split
  · exact hold_motion false s
  · rfl

/-- R92: the rest of a hold is handed with the held mark. -/
theorem stilled_events (s : State) : (stilled s).events = s.events ++
    if s.motion.moving then [.stoppedAt s.motion.tick s.motion.overshoot true] else [] := by
  by_cases h : s.motion.moving = true
  · rw [stilled_moving h, (cut_same _).events, if_pos h]
    simp [dropGate, handOver, holdMotion_moving h]
  · simp [stilled, h]

theorem stilled_capture {s : State} (h : s.framer.capture = none) :
    (stilled s).framer.capture = none ∧ (stilled s).banks = s.banks := by
  by_cases hm : s.motion.moving = true
  · have idle : (dropGate (handOver (holdMotion false s.motion) s)).framer.capture = none := h
    rw [stilled_moving hm, cutCapture_idle idle]
    exact ⟨idle, rfl⟩
  · rw [stilled, if_neg hm]
    exact ⟨h, rfl⟩

/-- R39, R53: the part as the order that an EMERGENCY STOP cuts short ends. -/
def emergencyStopped (s : State) : State := { stopActs s with events := [] }

/-- R39, R52, R65, R84, R97: what the stop has made of the part by then. -/
structure CutDown (s w : State) (a : Active) : Prop where
  inner : Inner s w
  seq : w.seq = { s.seq with active := some (a.cut .emergencyStopped) }
  reports : w.reports = s.reports
  power : w.power = s.power
  health : w.health = s.health
  place : w.place = { s.place with position := if s.motion.moving then none else s.place.position }
  motion : w.motion = if s.motion.moving then (holdMotion false s.motion).motion else s.motion
  framer : w.framer.gate = false ∧ w.framer.writer = .idle ∧ w.framer.capture = none
  banks : s.framer.capture = none → w.banks = s.banks
  events : w.events = []

theorem stopActs_eq {s : State} {a : Active} (ha : s.seq.active = some a) : stopActs s =
    { cutCapture (dropGate (stilled s)) with
      seq := { s.seq with active := some (a.cut .emergencyStopped) }, events := (stilled s).events ++ [.orderEnds] } := by
  have active : (stilled s).seq.active = some a := by rw [stilled_seq]; exact ha
  rw [← stilled_seq s]
  exact cutShort_eq .emergencyStopped active

theorem emergencyStopped_cutDown {s : State} {a : Active} (ha : s.seq.active = some a) :
    CutDown s (emergencyStopped s) a := by
  have held : Halted s (stilled s) := stilled_halted s
  have cut := cut_same (dropGate (stilled s))
  have framer := cut_framer (dropGate (stilled s))
  have inner : Inner s (emergencyStopped s) := (stopActs_inner s).setEvents
  unfold emergencyStopped at inner ⊢
  rw [stopActs_eq ha] at inner ⊢
  refine ⟨inner, rfl, cut.reports.trans held.reports, cut.power.trans held.power, cut.health.trans held.health,
    cut.place.trans held.place, cut.motion.trans (stilled_motion s), framer, fun h => ?_, rfl⟩
  have idle := stilled_capture h
  show (cutCapture (dropGate (stilled s))).banks = s.banks
  rw [cutCapture_idle (s := dropGate (stilled s)) idle.1]
  exact idle.2

/-! ### The faults as the gate drops (R145, R147) -/

theorem conditions_gateOff {s t : State} (hi : t.inputs = s.inputs) (hc : t.place.cart = s.place.cart)
    (hg : t.framer.gate = false) : conditions t = conditions s &&& ~~~writeChannelBit := by
  unfold conditions
  rw [hi, hc, hg]
  generalize s.inputs.tempw.level = hot, (!s.inputs.wrflt.level && s.framer.gate) = write,
    (!s.inputs.drvflt.level) = driver, (!s.inputs.tensok.level && s.place.cart == .loaded) = tension,
    (!s.inputs.supok.level) = supply
  rw [Bool.and_false]
  revert hot write driver tension supply
  decide

theorem writeChannel_latched (i : Nat) (hi : i < 6) : writeChannelBit[i] = true → latchedFaults[i] = true := by
  revert i
  decide

/-- R147: where the conditions are judged already, a dropped gate changes no fault: WRITE CHANNEL latches. -/
theorem presentFor_gateOff {h : Health} {c : BitVec 6} (hf : FaultsRecorded h) (hp : presentFor h c = h.present) :
    presentFor h (c &&& ~~~writeChannelBit) = h.present := by
  ext i hi
  have judged : (presentFor h c)[i] = h.present[i] := by rw [hp]
  have unmasked : (h.present &&& h.mask)[i] = (0#6)[i] := by rw [hf.1]
  have latched := writeChannel_latched i hi
  simp only [presentFor, BitVec.getElem_and, BitVec.getElem_or, BitVec.getElem_not, BitVec.getElem_zero,
    static_or_latched i hi] at judged unmasked ⊢
  generalize latchedFaults[i] = l, writeChannelBit[i] = w, (c)[i] = condition, h.mask[i] = masked,
    h.present[i] = present at *
  revert l w condition masked present
  decide

theorem CutDown.judged {s w : State} {a : Active} (h : CutDown s w a) (hs : Sound s)
    (hj : presentFor s.health (conditions s) = s.health.present) :
    presentFor w.health (conditions w) = w.health.present := by
  have cart : w.place.cart = s.place.cart := by rw [h.place]
  rw [h.health, conditions_gateOff h.inner.same.inputs cart h.framer.1]
  exact presentFor_gateOff hs.faults hj

/-! ### The ending (R33, R34, R97) -/

/-- R33, R92: what is left of an order side that has ended: at most the stopped-at of the request that ended with it. -/
theorem settleFor_ended {s : State} {n : Nat} (ha : s.seq.active = none) (hq : s.seq.queue = [])
    (hp : s.power.state ≠ .sleepPending) (hf : s.framer.capture = none)
    (he : s.events = [] ∨ ∃ t, s.events = [.stoppedAt t 0 false]) : settleFor (n + 1) s = { s with events := [] } := by
  have steady : Steady { s with events := [] } := ⟨rfl, hp, by simp [ha, hq]⟩
  rcases he with he | ⟨t, he⟩
  · have same : { s with events := [] } = s := by rw [← he]
    rw [same] at steady ⊢
    exact settleFor_steady steady _
  · have taken : onEvent (.stoppedAt t 0 false) { s with events := [] } = { s with events := [] } := by
      show onStopped _ = _
      unfold onStopped
      rw [onCapture_idle (s := { s with events := [] }) hf]
      simp only [ha]
    rw [settleFor_event he, taken, settleFor_steady steady]

/-- R39, R53: the order ends once the hold's rest is taken. -/
theorem settle_stopActs {s : State} {a : Active} (ha : s.seq.active = some a) (he : s.events = []) :
    ∃ n, settle (stopActs s) = settleFor (n + 1) (finish (emergencyStopped s)) := by
  have events : (stopActs s).events =
      (if s.motion.moving then [.stoppedAt s.motion.tick s.motion.overshoot true] else []) ++ [.orderEnds] := by
    rw [stopActs_eq ha, stilled_events, he]
    rfl
  by_cases hm : s.motion.moving = true
  · rw [if_pos hm] at events
    have ends := settleFor_event (s := { stopActs s with events := [.orderEnds] }) rfl 62
    exact ⟨61, (settleFor_event events 63).trans ends⟩
  · rw [if_neg hm] at events
    exact ⟨62, settleFor_event events 63⟩

theorem endRequest_motion (s : State) : (endRequest s).motion =
    if s.motion.state = .dwell ∨ s.motion.settling = true then (stopAtRest s.motion false).motion else s.motion := by
  unfold endRequest Motion.waitingAtRest
  simp only [Bool.or_eq_true, beq_iff_eq]
  split <;> rfl

theorem endRequest_kept (s : State) : Kept s.motion (endRequest s).motion := by
  rw [endRequest_motion]
  split <;> exact ⟨rfl, rfl, rfl⟩

theorem endRequest_position {s : State} (h : Anchored s) : (endRequest s).place.position = s.place.position := by
  unfold endRequest
  split
  · exact congrArg Place.position (anchored_place h (stopAtRest s.motion false).motion rfl)
  · rfl

theorem endRequest_events {s : State} (h : s.events = []) :
    (endRequest s).events = [] ∨ ∃ t, (endRequest s).events = [.stoppedAt t 0 false] := by
  unfold endRequest
  split
  · exact .inr ⟨s.motion.tick, by simp [handOver, h, stopAtRest]⟩
  · exact .inl h

/-- R97: the position that an ending with this final position leaves; none is given: the position that stands. -/
def takenPosition (final : Option (Option Position)) (s : State) : Option Position :=
  match final with
  | none => s.place.position
  | some p => if s.motion.refValid then p else none

theorem takeFinal_position (a : Active) (s : State) :
    (takeFinal a s).place.position = takenPosition a.final s := by
  unfold takeFinal takenPosition
  split <;> simp_all

theorem takenPosition_lost {s : State} (hr : s.motion.refValid = false) (hp : s.place.position = none)
    (final : Option (Option Position)) : takenPosition final s = none := by
  cases final with
  | none => exact hp
  | some p => exact if_neg (by simp [hr])

theorem takenPosition_congr {s t : State} (hr : t.motion.refValid = s.motion.refValid)
    (hp : t.place.position = s.place.position) (final : Option (Option Position)) :
    takenPosition final t = takenPosition final s := by
  simp only [takenPosition, hr, hp]

/-- R39: the part after an order that an EMERGENCY STOP has ended. -/
theorem emergencyStop_ends {s : State} {a : Active} (hs : Sound s) (ha : s.seq.active = some a) (he : s.events = [])
    (hp : s.power.state ≠ .sleepPending) (hj : presentFor s.health (conditions s) = s.health.present) :
    emergencyStop s = { preFin (emergencyStopped s) (a.cut .emergencyStopped) with events := [] } := by
  have down := emergencyStopped_cutDown ha
  have failed := (cut_endCause a).2
  have active : (emergencyStopped s).seq.active = some (a.cut .emergencyStopped) := by rw [down.seq]
  have ends := finish_failed (down.inner.sound hs) active failed (down.judged hs hj)
  obtain ⟨n, settles⟩ := settle_stopActs ha he
  have stops : emergencyStop s = settle (stopActs s) := by rw [emergencyStop, ha]
  rw [stops, settles, ends]
  rw [preFin_failed failed]
  exact settleFor_ended rfl rfl (down.power ▸ hp) down.framer.2.2 (endRequest_events down.events)

/-- R39, R97, R100: the position that an EMERGENCY STOP at rest leaves, by the stage in progress. -/
def stagePosition (a : Active) (s : State) : Option Position :=
  if a.isStream then s.place.position
  else if s.motion.refValid = false then none
  else match a.stage with
    | .scan => a.scan.landmark
    | .settle => a.final.getD s.place.position
    | _ => none

theorem takenPosition_haltFinal {s : State} (h : Anchored s) (a : Active) :
    takenPosition (haltFinal a) s = stagePosition a s := by
  unfold haltFinal stagePosition
  by_cases stream : a.isStream = true
  · rw [if_pos stream, if_pos stream]
    rfl
  · rw [if_neg stream, if_neg stream]
    cases valid : s.motion.refValid with
    | false =>
      have unknown : s.place.position = none := by
        cases position : s.place.position with
        | none => rfl
        | some p => exact absurd (h (by rw [position]; rfl)) (by rw [valid]; exact Bool.false_ne_true)
      rw [takenPosition_lost valid unknown, if_pos rfl]
    | true =>
      rw [if_neg (by simp)]
      cases a.stage with
      | settle => cases a.final <;> simp [takenPosition, valid]
      | startChecks | reference | travel | scan | done => simp [takenPosition, valid]

/-- R84, R97: a transport that moved is at rest as the order ends, the reference and the position lost. -/
theorem CutDown.of_moving {s w : State} {a : Active} (h : CutDown s w a) (hm : s.motion.moving = true) :
    endRequest w = w ∧ w.motion.state = .stopped ∧ w.motion.rate = 0 ∧ w.motion.refValid = false ∧
      w.place.position = none ∧ w.motion.lastOvershoot = BitVec.ofNat 16 s.motion.overshoot := by
  have motion := h.motion
  have place := h.place
  rw [if_pos hm, holdMotion_moving hm] at motion
  rw [if_pos hm] at place
  refine ⟨endRequest_rest ?_, ?_⟩ <;> rw [motion]
  · rfl
  · exact ⟨rfl, rfl, rfl, by rw [place], rfl⟩

/-- R39: a transport at rest is as it was when the order ends. -/
theorem CutDown.of_rest {s w : State} {a : Active} (h : CutDown s w a) (hm : s.motion.moving = false) :
    w.motion = s.motion ∧ w.place = s.place := by
  have motion := h.motion
  have place := h.place
  rw [if_neg (by simp [hm])] at motion place
  exact ⟨motion, place⟩

/-- R39, R97, R100: the position of an order that an EMERGENCY STOP has ended at rest. -/
theorem CutDown.rest_position {s w : State} {a : Active} (h : CutDown s w a) (hs : Anchored s)
    (hm : s.motion.moving = false) :
    (takeFinal (a.cut .emergencyStopped) (endRequest w)).place.position = stagePosition a s := by
  obtain ⟨motion, place⟩ := h.of_rest hm
  have anchored : Anchored w := by
    unfold Anchored
    rw [motion, place]
    exact hs
  have valid : (endRequest w).motion.refValid = s.motion.refValid := (endRequest_kept w).ref.trans (by rw [motion])
  have position : (endRequest w).place.position = s.place.position :=
    (endRequest_position anchored).trans (by rw [place])
  rw [takeFinal_position, takenPosition_congr valid position]
  exact takenPosition_haltFinal hs a

end Sys2Proof.Machine

section

open Sys2Proof Sys2Proof.Machine

/-- Settles O32, by what the stop has made of the part as the order ends. -/
theorem Sys2Proof.emergencyStopActive : Obligations.EmergencyStopActive := by
  unfold Obligations.EmergencyStopActive
  intro a s hs hp ha he hpow hj
  have down := emergencyStopped_cutDown ha
  have kept := endRequest_kept (emergencyStopped s)
  obtain ⟨cause, failed⟩ := cut_endCause a
  have tick : (endRequest (emergencyStopped s)).motion.tick = s.motion.tick :=
    kept.tick.trans (by rw [down.motion, ← stilled_motion]; exact (stilled_halted s).tick)
  refine ⟨_, exec_emergencyStop hp, ?_⟩
  rw [emergencyStop_ends hs ha he hpow hj, preFin_failed failed]
  refine ⟨by simp only [down.seq], (push_last _ _).1.trans cause, (push_last _ _).2, down.framer.1, down.framer.2.1,
    down.framer.2.2, tick, down.inner.same.host, down.inner.same.setup, down.health, down.inner.same.link, down.power,
    by simp only [down.place], fun h => by simp only [down.banks h], fun moving => ?_, fun rests => ⟨?_, ?_⟩⟩
  · obtain ⟨rest, stopped, rate, invalid, unknown, overshoot⟩ := down.of_moving moving
    have position : (takeFinal (a.cut .emergencyStopped) (emergencyStopped s)).place.position = none :=
      (takeFinal_position _ _).trans (takenPosition_lost invalid unknown _)
    simp only [rest]
    exact ⟨stopped, rate, invalid, position, overshoot⟩
  · have motion := (down.of_rest rests).1
    simp only [endRequest_motion, motion, stopAtRest]
  · exact down.rest_position hs.anchored rests

end
end

section
/-! SUPPORT. The recorded header field (R61 to R64): what is read back of it in either direction, and the statement
about it. -/

namespace Sys2Proof.Machine

/-! ### The bytes of a field (R61, R63) -/

/-- R61, R63: the 64 bits of a field in forward order, the inverse of `fieldOf`. -/
def HeaderField.bits (f : HeaderField) : BitVec 64 :=
  f.b0 ++ f.b1 ++ f.b2 ++ f.b3 ++ f.b4 ++ f.b5 ++ f.check

@[simp] theorem fieldOf_bits (f : HeaderField) : fieldOf f.bits = f := by
  simp only [fieldOf, HeaderField.bits, BitVec.extractLsb'_append_eq_of_le, BitVec.extractLsb'_append_eq_right,
    BitVec.extractLsb'_eq_self, Nat.le_refl, Nat.reduceSub, Nat.reduceLeDiff]

/-- R63: what has passed the head in either direction is recovered in forward order. -/
@[simp] theorem recovered_passing (dir : Dir) (bits : BitVec 64) : recovered dir (passing dir bits) = fieldOf bits := by
  cases dir with
  | forward => rfl
  | reverse => exact congrArg fieldOf BitVec.reverse_reverse_eq

/-- R62, R63: the field that the Framer records for a block: the content and its check. -/
def recordedField (r : Recording) : HeaderField :=
  let c := recordedContent r
  { b0 := c.b0, b1 := c.b1, b2 := c.b2, b3 := c.b3, b4 := c.b4, b5 := c.b5, check := headerCheck c }

theorem recordedBits_eq (r : Recording) : recordedBits r = (recordedField r).bits := rfl

/-! ### The content (R62) -/

/-- R62: byte 0 holds Kind, Partition, the length code and two zero bits. -/
theorem contentByte0_fields (kind part length : BitVec 2) :
    (kind ++ part ++ length ++ 0#2).extractLsb' 6 2 = kind ∧
      (kind ++ part ++ length ++ 0#2).extractLsb' 4 2 = part ∧
      (kind ++ part ++ length ++ 0#2).extractLsb' 2 2 = length ∧
      (kind ++ part ++ length ++ 0#2).extractLsb' 0 2 = 0#2 := by
  simp only [BitVec.extractLsb'_append_eq_of_le, BitVec.extractLsb'_append_eq_right,
    BitVec.extractLsb'_eq_self, Nat.le_refl, Nat.reduceSub, Nat.reduceLeDiff, and_self]

@[simp] theorem recordedContent_kind (r : Recording) : (recordedContent r).kind = some r.kind := by
  have bits : (recordedContent r).kindBits = kindCode r.kind := by
    obtain ⟨kind, -, -, -⟩ := contentByte0_fields (kindCode r.kind) r.part r.lengthCode
    exact kind
  rw [HeaderContent.kind, bits]
  cases r.kind <;> rfl

@[simp] theorem recordedContent_part (r : Recording) : (recordedContent r).part = r.part := by
  obtain ⟨-, part, -, -⟩ := contentByte0_fields (kindCode r.kind) r.part r.lengthCode
  exact part

@[simp] theorem recordedContent_lengthCode (r : Recording) : (recordedContent r).lengthCode = r.lengthCode := by
  obtain ⟨-, -, length, -⟩ := contentByte0_fields (kindCode r.kind) r.part r.lengthCode
  exact length

@[simp] theorem recordedContent_copy (r : Recording) : (recordedContent r).copy = r.copy :=
  BitVec.extractLsb'_append_eq_right

@[simp] theorem recordedContent_number (r : Recording) : (recordedContent r).number = r.number := by
  simp only [HeaderContent.number, recordedContent]
  rw [BitVec.extractLsb'_append_extractLsb'_eq_extractLsb' (by omega),
    BitVec.extractLsb'_append_extractLsb'_eq_extractLsb' (by omega)]
  exact BitVec.extractLsb'_eq_self

@[simp] theorem recordedContent_zerosOk (r : Recording) : (recordedContent r).zerosOk = true := by
  have low : (recordedContent r).b0.extractLsb' 0 2 = 0#2 := by
    obtain ⟨-, -, -, zero⟩ := contentByte0_fields (kindCode r.kind) r.part r.lengthCode
    exact zero
  have high : (recordedContent r).b1.extractLsb' 3 5 = 0#5 := BitVec.extractLsb'_append_eq_left
  rw [HeaderContent.zerosOk, low, high]
  rfl

/-- R64: a field whose content checks, with the kind that its Kind bits name, is good. -/
theorem goodHeader_checked {f : HeaderField} {kind : BlockKind} (origin : Int) (hk : (fieldContent f).kind = some kind)
    (hc : headerCheck (fieldContent f) = f.check) (hl : kind = .data ∨ (fieldContent f).lengthCode = 0)
    (hz : (fieldContent f).zerosOk = true) :
    goodHeader f origin = some {
      kind, part := (fieldContent f).part, lengthCode := (fieldContent f).lengthCode, copy := (fieldContent f).copy
      number := (fieldContent f).number, origin } := by
  have length : (kind == .data || (fieldContent f).lengthCode == 0#2) = true := by simpa using hl
  simp only [goodHeader, hk, hc, length, hz, beq_self_eq_true, Bool.and_self, if_true]

/-- Settles O40: the field read back is the field recorded, and each part of its content is the recording's. -/
theorem headerRoundTrip : Obligations.HeaderRoundTrip := by
  unfold Obligations.HeaderRoundTrip
  intro r dir origin length
  have content : fieldContent (recordedField r) = recordedContent r := rfl
  rw [recovered_passing, recordedBits_eq, fieldOf_bits, goodHeader_checked (kind := r.kind) origin] <;> rw [content]
  · simp only [recordedContent_part, recordedContent_lengthCode, recordedContent_copy, recordedContent_number]
  · exact recordedContent_kind r
  · rfl
  · rwa [recordedContent_lengthCode]
  · exact recordedContent_zerosOk r

end Sys2Proof.Machine
end

section
/-! SUPPORT. A header event and the result of a capture (R64 to R66, R72, R106, R114, R118, R123, R124): what each makes
of the order, the map and the banks, and the statements about them. -/

namespace Sys2Proof.Machine

/-! ### A header event (R63, R64, R66) -/

theorem fieldEnds_eq_none (s : State) : fieldEnds s = none ↔ s.framer.field = none ∨ s.power.state = .sleep := by
  by_cases h : s.power.state = .sleep <;> simp [fieldEnds, h]

theorem exec_headerEvent_none {s : State} (bits : BitVec 64) (h : fieldEnds s = none) :
    exec (.headerEvent bits) s = .next s := by
  change execHeaderEvent bits s = .next s
  rw [execHeaderEvent, h]

theorem exec_headerEvent_field {s : State} {place : FieldPlace} (bits : BitVec 64) (h : fieldEnds s = some place) :
    exec (.headerEvent bits) s =
      .next (settle (headerMet (recovered place.dir bits) place.origin (takeField s))) := by
  change execHeaderEvent bits s = _
  rw [execHeaderEvent, h]
  rfl

/-- R106, R114: the order as a good header has restarted its gap count and an END of it is remembered. -/
def Active.metHeader (h : Header) (a : Active) : Active :=
  { a with gap := 0, scan := { a.scan with ends := noteEnd h a.scan.ends } }

/-- R64, R66, R114: the part as a good header has loaded LAST HEADER and taught the map. -/
def headerLearnt (f : HeaderField) (h : Header) (a : Active) (s : State) : State :=
  { s with
    framer := { s.framer with
      field := none, headerCrc := headerCheck (fieldContent f), lastHeader := fieldContent f }
    place := if teaches s { a with gap := 0 } h then mapInsert h.part h.number h.origin .learned s.place else s.place
    seq := { s.seq with active := some (a.metHeader h) } }

/-- R114: what a good header teaches. -/
theorem learn_eq {s : State} {a : Active} (h : Header) (ha : s.seq.active = some a) : learn h s = { s with
    place := if teaches s a h then mapInsert h.part h.number h.origin .learned s.place else s.place
    seq := { s.seq with active := some { a with scan := { a.scan with ends := noteEnd h a.scan.ends } } } } := by
  simp only [learn, ha]
  split <;> exact onActive_some (a := a) _ ha

/-- R63, R64, R106: the part as a bad header has restarted the gap count. -/
def headerUnread (f : HeaderField) (a : Active) (s : State) : State :=
  { s with
    framer := { s.framer with field := none, headerCrc := headerCheck (fieldContent f) }
    seq := { s.seq with active := some { a with gap := 0 } } }

section

variable {s : State} {a : Active} {f : HeaderField} {origin : Int}

/-- R64, R106: with no capture armed a bad header restarts the gap count only. -/
theorem headerMet_bad (hc : s.framer.capture = none) (ha : s.seq.active = some a)
    (hg : goodHeader f origin = none) :
    headerMet f origin (takeField s) = headerUnread f a s := by
  rw [headerMet, onCapture_idle (s := takeField s) hc, hg]
  exact onActive_some (a := a) _ ha

/-- R64, R114: with no capture armed a good header teaches the map, and the order classifies it. -/
theorem headerMet_good {h : Header} (hc : s.framer.capture = none) (ha : s.seq.active = some a)
    (hg : goodHeader f origin = some h) :
    headerMet f origin (takeField s) = classify h (headerLearnt f h a s) := by
  rw [headerMet, onCapture_idle (s := takeField s) hc, hg]
  refine congrArg (classify h) ((learn_eq (a := { a with gap := 0 }) h ?_).trans ?_)
  · exact congrArg (Option.map _) ha
  · simp only [restartGap, onActive, loadHeader, takeField, ha, Option.map_some, headerLearnt, Active.metHeader]
    rfl

end

/-- Outside a scan and the stop of a completed reading order a good header is not classified. -/
theorem classify_other {s : State} {a : Active} (h : Header) (ha : s.seq.active = some a) (h1 : a.phase ≠ .scan)
    (h2 : a.phase ≠ .scanBack) (h3 : a.phase ≠ .confirm) (h4 : a.phase ≠ .complete) : classify h s = s := by
  simp only [classify, ha]

/-- Settles O41, by whether a field has passed and its header is good. -/
theorem headerEvent : Obligations.HeaderEvent := by
  unfold Obligations.HeaderEvent
  refine fun bits s => ⟨fun hf => exec_headerEvent_none bits ((fieldEnds_eq_none s).2 hf), ?_⟩
  rintro a place f origin steady hf rfl ho hc ha
  have at_origin : place.origin = origin := by rw [ho]; rfl
  obtain ⟨events, -, phase⟩ := steady
  rw [ha] at phase
  rw [exec_headerEvent_field bits hf, at_origin]
  refine ⟨fun bad => ?_, fun h good h1 h2 h3 h4 => ?_⟩
  · rw [headerMet_bad hc ha bad, settle_waiting (s := headerUnread _ a s) rfl events phase]
    rfl
  · rw [headerMet_good hc ha good, classify_other (a := a.metHeader h) h rfl h1 h2 h3 h4,
      settle_waiting (s := headerLearnt _ h a s) rfl events phase]
    rfl

/-! ### The stream of a READ BLOCKS (R72, R118, R123, R124) -/

theorem isRead_of_readBlocks {a : Active} (h : a.kind = some .readBlocks) : a.isRead = true := by
  rw [Active.isRead, h]; rfl

/-- R114: a header of a block is no END to remember. -/
theorem metHeader_block {h : Header} (a : Active) (hk : h.kind ≠ .endMark) : a.metHeader h = { a with gap := 0 } := by
  have ends : noteEnd h a.scan.ends = a.scan.ends := by simp [noteEnd, hk]
  rw [Active.metHeader, ends]

/-- R72, row 2. -/
theorem seqRow_expected {c : Setup} {p : PartNo} {n : BlockNo} {h : Header} (hp : h.part = p)
    (hr : inRegion c p h.origin = true) (hk : h.kind ≠ .endMark) (hn : h.number = n) :
    seqRow c p n h = .expected := by
  simp [seqRow, hp, hr, hk, hn]

theorem learnt_position (f : HeaderField) (h : Header) (a : Active) (s : State) :
    (headerLearnt f h a s).place.position = s.place.position := by
  simp only [headerLearnt]
  split <;> rfl

/-- R72, R123: the expected DATA block in the stream of a reading order. -/
theorem classify_expected {s : State} {a : Active} {p : Position} {h : Header} (ha : s.seq.active = some a)
    (hs : a.phase = .scan) (hr : a.isRead = true) (hp : s.place.position = some p) (ho : p.slot ≤ h.origin)
    (hrow : seqRow a.snap a.part p.next h = .expected) (hk : h.kind = .data) :
    classify h s = armCapture a h (seeCopy a p h s) := by
  simp only [classify, ha, hs, hr, if_true, readHeader, hp, readHeaderAt, if_neg (Int.not_lt.2 ho), hrow, hk]

/-- R124: the part as the first copy of the expected block has fixed the running slot origin. -/
def copySeenAt (a : Active) (p : Position) (h : Header) (s : State) : State :=
  { s with
    place := { s.place with position := some { p with slot := h.origin } }
    seq := { s.seq with active := some { a with stream := { a.stream with copySeen := true } } } }

theorem seeCopy_first {s : State} {a : Active} {p : Position} (h : Header) (ha : s.seq.active = some a)
    (hv : s.motion.refValid = true) (hc : a.stream.copySeen = false) : seeCopy a p h s = copySeenAt a p h s := by
  simp [seeCopy, hc, onActive, setPosition, ha, hv, copySeenAt]

/-- R118, R124: the part as a capture has been armed in a bank. -/
def armedIn (a : Active) (h : Header) (id : BankId) (s : State) : State :=
  { s with
    banks := s.banks.claim id (capturingBank a h)
    framer := { s.framer with capture := some (captureOf h (some id)) } }

theorem armCapture_claims {s : State} {a : Active} {id : BankId} (h : Header) (ha : armable s a = true)
    (hk : a.kind = some .readBlocks) (hb : s.banks.toClaim = some id) : armCapture a h s = armedIn a h id s := by
  simp [armCapture, ha, hk, hb, armedIn]

/-- Settles O43: the header is that of row 2, its copy the first, and a bank is free for it. -/
theorem captureArmed : Obligations.CaptureArmed := by
  unfold Obligations.CaptureArmed
  intro bits place f h a p id s under hc hk hs hf ef good hp seen slot kind part region number rate free
  subst ef
  have block : h.kind ≠ .endMark := by simp [kind]
  have met : a.metHeader h = { a with gap := 0 } := metHeader_block a block
  have valid : s.motion.refValid = true := under.anchored (by rw [hp]; rfl)
  have row : seqRow a.snap a.part p.next h = .expected := seqRow_expected part region block number
  rw [exec_headerEvent_field bits hf, headerMet_good hc under.active good,
    classify_expected (a := a.metHeader h) rfl hs (isRead_of_readBlocks hk) ((learnt_position _ h a s).trans hp) slot
      row kind,
    seeCopy_first (a := a.metHeader h) (s := headerLearnt _ h a s) h rfl valid seen,
    armCapture_claims (a := a.metHeader h) (s := copySeenAt _ p h (headerLearnt _ h a s)) h rate hk free,
    settle_waiting (s := armedIn _ h id (copySeenAt _ p h (headerLearnt _ h a s))) rfl under.events (by simp [hs, met])]
  simp only [met, armedIn, copySeenAt, headerLearnt, Banks.claim, capturingBank, captureOf, kind]

/-! ### The result of a capture (R65, R118, R124) -/

theorem exec_captureResult_none {s : State} (data : List Byte) (trailer : BitVec 32) (h : s.framer.capture = none) :
    exec (.captureResult data trailer) s = .next s := by
  change execCaptureResult data trailer s = .next s
  rw [execCaptureResult, h]

theorem exec_captureResult_armed {s : State} {k : Capture} (data : List Byte) (trailer : BitVec 32)
    (h : s.framer.capture = some k) :
    exec (.captureResult data trailer) s = .next (settle (captureEnds k data trailer s)) := by
  change execCaptureResult data trailer s = _
  rw [execCaptureResult, h]

/-- R65, R118: the part as a capture has ended, before the order takes its result. -/
def resultBank (good : Bool) (data : List Byte) (id : BankId) (s : State) : State :=
  { s with
    framer := { s.framer with capture := none, dataCrc := dataCrcReg data }
    banks := s.banks.set id (if good then { s.banks.get id with state := .fullRead, data := data } else .cleared) }

theorem onCapture_bank {s : State} {k : Capture} {id : BankId} (good : Bool) (data : List Byte)
    (hc : s.framer.capture = some k) (hb : k.bank = some id) :
    onCapture good data (loadDataCrc data s) = readResult good k (resultBank good data id s) := by
  have capture : (loadDataCrc data s).framer.capture = some k := hc
  simp only [onCapture, capture, captureBank, hb]
  cases good <;> rfl

section

variable {s : State} {a : Active} {p : Position}

/-- R124: the part as the expected block has been read good. -/
def blockRead (a : Active) (p : Position) (k : Capture) (s : State) : State :=
  { s with
    place := { s.place with position := some {
      part := a.part, next := nextNumber p.next, slot := k.origin + footprint .data k.lengthCode, eod := false } }
    seq := { s.seq with active := some { a with stream := { a.stream with
      done := a.stream.done + 1, recovered := a.stream.recovered || decide (0 < a.stream.retry)
      retry := 0, copySeen := false } } } }

theorem readDone_eq (k : Capture) (ha : s.seq.active = some a) (hv : s.motion.refValid = true) :
    readDone a p k s = blockRead a p k s := by
  simp [readDone, onActive, setPosition, before, ha, hv, blockRead]

/-- R124: a good result short of the last block, no stop waiting. -/
theorem readResult_good (k : Capture) (ha : s.seq.active = some a) (hp : s.place.position = some p)
    (hv : s.motion.refValid = true) (hs : a.phase = .scan) (hr : a.isRead = true) (hw : stopWanted s a = false)
    (hn : a.stream.done + 1 < paramCount a.entry.params) : readResult true k s = blockRead a p k s := by
  simp [readResult, ha, hp, hs, hr, readDone_eq k ha hv, hw, Nat.not_le.2 hn]

/-- R124: a bad result, no stop waiting: the block is still expected. -/
theorem readResult_bad (k : Capture) (ha : s.seq.active = some a) (hp : s.place.position = some p)
    (hw : stopWanted s a = false) : readResult false k s = s := by
  simp [readResult, ha, hp, hw]

/-- R123: a scan within its limits goes on after a result. -/
theorem limitsAfterResult_within (ha : s.seq.active = some a) (he : s.motion.pos < partEnd a.snap a.part)
    (hg : a.gap < a.snap.gapLimit.toNat) : limitsAfterResult s = s := by
  simp [limitsAfterResult, ha, scanLimits, gapFull, Int.not_le.2 he, Nat.not_le.2 hg]

end

/-- Settles O44, by the result. -/
theorem captureResult : Obligations.CaptureResult := by
  unfold Obligations.CaptureResult
  refine fun data trailer s => ⟨exec_captureResult_none data trailer, ?_⟩
  intro a p k id under hk hs hp hc hb more region gap
  have valid : s.motion.refValid = true := under.anchored (by rw [hp]; rfl)
  have phase : a.phase ≠ .waitBank ∧ a.phase ≠ .repWait := by simp [hs]
  rw [exec_captureResult_armed data trailer hc, captureEnds]
  refine ⟨fun good => ?_, fun bad => ?_⟩
  · rw [good, onCapture_bank true data hc hb,
      readResult_good (s := resultBank true data id s) k under.active hp valid hs (isRead_of_readBlocks hk)
        under.noStop more,
      limitsAfterResult_within (s := blockRead a p k (resultBank true data id s)) rfl region gap,
      settle_waiting (s := blockRead a p k (resultBank true data id s)) rfl under.events phase]
    rfl
  · rw [bad, onCapture_bank false data hc hb,
      readResult_bad (s := resultBank false data id s) k under.active hp under.noStop,
      limitsAfterResult_within (s := resultBank false data id s) under.active region gap,
      settle_waiting (s := resultBank false data id s) under.active under.events phase]
    rfl

end Sys2Proof.Machine
end

section
/-! SUPPORT. A capstan step (R64, R66, R74, R86, R88, R92): what it counts, what header field ends with it and the turn
of a host access beside it (log 3), and the statement about it. -/

namespace Sys2Proof.Machine

/-! ### The steps of a move (R64) -/

theorem rampStep_run (c : Setup) (m : Motion) : (rampStep c m).motion.run = m.run := by
  have plan : ∀ x, (planStop c x).1.run = x.run := by
    intro x
    unfold planStop
    repeat' split
    all_goals rfl
  have rise : (riseStep c m).1.run = m.run := by
    unfold riseStep
    dsimp only
    repeat' split
    all_goals rfl
  have fall : (fallStep c m).1.run = m.run := by
    unfold fallStep
    dsimp only
    repeat' split
    all_goals rfl
  have brake : (brakeStep c m).1.run = m.run := by
    unfold brakeStep
    dsimp only
    split <;> rfl
  unfold rampStep
  dsimp only
  split
  · exact brake
  · rw [plan]
    split
    · exact rise
    · exact fall
    · rfl

@[simp] theorem restNow_run (m : Motion) : (restNow m).motion.run = m.run := by
  unfold restNow
  split <;> rfl

@[simp] theorem beginStop_run (c : Setup) (m : Motion) : (beginStop c m).motion.run = m.run := by
  unfold beginStop
  dsimp only
  split
  · exact restNow_run _
  · rfl

@[simp] theorem closeStep_run (c : Setup) (pre : List MotionEvent) (n : Nat) (o : Ctl) :
    (closeStep c pre n o).motion.run = o.motion.run := by
  unfold closeStep
  split <;> rfl

@[simp] theorem endStep_run (c : Setup) (pre : List MotionEvent) (r : Ramp) :
    (endStep c pre r).motion.run = r.motion.run := by
  rw [endStep, closeStep_run]
  split
  · exact restNow_run _
  · rfl

@[simp] theorem stopStep_run (c : Setup) (pre : List MotionEvent) (m : Motion) :
    (stopStep c pre m).motion.run = m.run := by
  rw [stopStep, closeStep_run, beginStop_run]

theorem seekStep_run (e : CtlEnv) (m : Motion) : (seekStep e m).motion.run = m.run := by
  unfold seekStep
  repeat' split
  · exact stopStep_run _ _ _
  · exact stopStep_run _ _ _
  · exact stopStep_run _ _ _
  · rw [endStep_run, rampStep_run]

theorem boundaryStep_run (e : CtlEnv) (r : BoundaryReason) (m : Motion) : (boundaryStep e r m).motion.run = m.run := by
  unfold boundaryStep
  dsimp only
  split
  · rw [endStep_run]
    exact rampStep_run _ _
  · exact stopStep_run _ _ _

/-- R64: every step is one more of its move. -/
theorem stepOnce_run (e : CtlEnv) (m : Motion) : (stepOnce e m).motion.run = m.run + 1 := by
  have ramp : (endStep e.setup (firstRate (countStep m)) (rampStep e.setup (countStep m))).motion.run = m.run + 1 :=
    (endStep_run _ _ _).trans (rampStep_run _ _)
  unfold stepOnce
  dsimp only
  split
  · exact seekStep_run e _
  · exact seekStep_run e _
  · exact ramp
  · split
    · exact ramp
    · exact boundaryStep_run e _ _

/-! ### The zeroing edge (R88) -/

/-- R88: the step that finds the edge of a zeroing seek begins its stop, and is handed. -/
theorem stepOnce_zero_stepped (e : CtlEnv) (m : Motion) (h : m.seek = .seeking ∧ m.toRest = false ∧ e.bots = true) :
    .stepped ∈ (stepOnce e m).events := by
  obtain ⟨seeking, free, edge⟩ := h
  have counted : (countStep m).seek = .seeking ∧ (countStep m).toRest = false := ⟨seeking, free⟩
  have stop : stepOnce e m = stopStep e.setup (.zeroed :: firstRate (countStep m)) (zeroStep (countStep m)) := by
    simp [stepOnce, seeking, seekStep, counted, edge]
  rw [stop]
  obtain ⟨-, handed⟩ := stopStep_kept e.setup (.zeroed :: firstRate (countStep m)) (zeroStep (countStep m))
  exact handed

/-- R86, R88: what a step makes of the counter and the reference. -/
structure Counted (e : CtlEnv) (m : Motion) (o : Ctl) : Prop where
  last : o.motion.lastDir = some m.dir
  handed : .stepped ∈ o.events
  zeroes : m.seek = .seeking ∧ m.toRest = false ∧ e.bots = true → o.motion.tick = 0 ∧ o.motion.refValid = true
  counts : ¬ (m.seek = .seeking ∧ m.toRest = false ∧ e.bots = true) → o.motion.refValid = m.refValid ∧
    o.motion.tick = match m.dir with | .forward => m.tick + 1 | .reverse => m.tick - 1

theorem stepOnce_counted (e : CtlEnv) (m : Motion) : Counted e m (stepOnce e m) := by
  by_cases h : m.seek = .seeking ∧ m.toRest = false ∧ e.bots = true
  · have kept := stepOnce_zero e m h
    exact ⟨kept.last, stepOnce_zero_stepped e m h, fun _ => ⟨kept.tick, kept.ref⟩, fun away => absurd h away⟩
  · obtain ⟨kept, handed⟩ := stepOnce_none e m h
    exact ⟨kept.last, handed, fun zero => absurd zero h, fun _ => ⟨kept.ref, kept.tick⟩⟩

/-! ### The field that ends with a step (R64, R66) -/

/-- R64, R66: a header field has ended where the gate was off and the move has passed the whole of it. -/
theorem fieldSeen_step (header : Option (BitVec 64)) (e : CtlEnv) (s : State) :
    fieldSeen header (stepOnce e s.motion) s =
      if s.framer.gate = true ∨ s.motion.run + 1 < (if s.motion.dir = .forward then 12 else 13) then none
      else some {
        dir := s.motion.dir, tick := (if s.motion.dir = .forward then (stepOnce e s.motion).motion else s.motion).tick
        bits := header } := by
  have run := stepOnce_run e s.motion
  cases gate : s.framer.gate with
  | true => simp [fieldSeen, gate]
  | false =>
    cases dir : s.motion.dir <;>
      simp [fieldSeen, gate, fieldPassed, run, dir, fieldSteps, Config.headerTicks]

/-! ### The instant of a step (R53; log 3) -/

/-- Log 3: a row that carries a host access of its instant gives each access its turn. -/
theorem accessAtInstant_of_row {row : Option HostAccess → Instr} {b : Beside}
    (hrow : ∀ host s, exec (row host) s = .next (instant host b false s)) (s : State) : AccessAtInstant row b s := by
  refine ⟨fun _ => by rw [hrow, instant_none], fun access t plain next => ?_⟩
  rw [hrow] at next
  injection next with next
  subst next
  rw [hrow, hrow, instant_plain b s plain]
  cases instantTurn b access s <;> rfl

theorem exec_capstanStep (bots eots : Bool) (header : Option (BitVec 64)) (host : Option HostAccess) (s : State) :
    exec (.capstanStep ⟨bots, eots, host⟩ header) s = .next (instant host (.step bots eots header) false s) := rfl

/-- R53, R74: alone at its instant a step of a moving transport settles; at rest no step is issued. -/
theorem exec_capstanStep_alone (bots eots : Bool) (header : Option (BitVec 64)) (s : State) :
    exec (.capstanStep ⟨bots, eots, none⟩ header) s =
      .next (if s.motion.moving then settle (stepCapstan header (setMarkers bots eots s)) else s) := by
  rw [exec_capstanStep, instant_none, eventAround, stepAround_id]

/-- Settles O34: the step counts, the field that ends with it is the one seen, and the row carries its instant. -/
theorem capstanStep : Obligations.CapstanStep := by
  unfold Obligations.CapstanStep
  intro bots eots header s
  refine ⟨accessAtInstant_of_row (exec_capstanStep bots eots header) s, fun rest => ?_, fun moving => ?_⟩
  · simp only [exec_capstanStep_alone, rest, Bool.false_eq_true, if_false]
  · intro e o zeroes forward place
    obtain ⟨last, handed, zero, counts⟩ := stepOnce_counted e s.motion
    refine ⟨?_, last, handed, zero, counts⟩
    have stepped : stepCapstan header (setMarkers bots eots s) = handOver o { setMarkers bots eots s with
        framer := { s.framer with field := fieldSeen header o (setMarkers bots eots s) } } := rfl
    have field : fieldSeen header o (setMarkers bots eots s) = _ := fieldSeen_step header e (setMarkers bots eots s)
    rw [exec_capstanStep_alone, if_pos moving, stepped, field]
    rfl

end Sys2Proof.Machine
end

section
/-! SUPPORT. The ramp down of the controller, and a move-to from rest to its target (R77 to R81): what is left of a move at
each of its steps, and the statements about them. -/

namespace Sys2Proof.Machine

/-! ### The steps of one move (R74) -/

/-- R74: where each of `n` steps finds the transport moving and leaves one step less to make, it moves at every step before
the last. -/
theorem stepsOf_countdown {e : CtlEnv} {P : Nat → Motion → Prop} (moves : ∀ n m, P (n + 1) m → m.moving = true)
    (steps : ∀ n m, P (n + 1) m → P n (stepOnce e m).motion) (n : Nat) :
    ∀ m, P n m → (∀ k, k < n → (stepsOf e k m).moving = true) ∧ P 0 (stepsOf e n m) := by
  induction n with
  | zero => exact fun m h => ⟨fun k hk => absurd hk k.not_lt_zero, h⟩
  | succ n ih =>
    intro m h
    obtain ⟨moving, rest⟩ := ih _ (steps n m h)
    refine ⟨fun k hk => ?_, rest⟩
    cases k with
    | zero => exact moves n m h
    | succ k => exact moving k (Nat.lt_of_succ_lt_succ hk)

/-- R89, R90: a step outside a zeroing seek at which nothing is met: the ramp runs, and the step ends. -/
theorem stepOnce_clear {e : CtlEnv} {m : Motion} (hs : m.seek = .none) (hb : boundaryMet e (countStep m) = none) :
    stepOnce e m = endStep e.setup (firstRate (countStep m)) (rampStep e.setup (countStep m)) := by
  unfold stepOnce
  simp only [hs, hb]

/-- R81: a rest that no pending request follows. -/
theorem restNow_ends {m : Motion} (h : m.waiting = none) :
    (restNow m).motion = { m.rested with request := none, seek := .none } := by
  rw [restNow, h]

/-- R91: the end of a step touches, besides the rest of a move that has arrived, the stall count only. -/
theorem endStep_motion (c : Setup) (pre : List MotionEvent) (r : Ramp) : ∃ stalls, (endStep c pre r).motion =
    { if r.arrived then (restNow r.motion).motion else r.motion with stallCount := stalls } := by
  unfold endStep closeStep
  split
  · exact ⟨0, by split <;> rfl⟩
  · split
    · exact ⟨(restNow r.motion).motion.stallCount, rfl⟩
    · exact ⟨r.motion.stallCount, rfl⟩

/-- R74, R86: a tick that no step in this direction misses for the end of the counter's range. -/
def InReach (t : Int) (d : Dir) : Prop :=
  match d with
  | .forward => t ≤ 8000000
  | .reverse => 0 ≤ t

/-- R86: `n` ticks ahead of the head, in its direction of travel, lies the tick `t`. -/
def Ahead (t : Int) (n : Nat) (m : Motion) : Prop :=
  match m.dir with
  | .forward => m.pos + n = t
  | .reverse => m.pos - n = t

theorem Ahead.remaining {t : Int} {n : Nat} {m : Motion} (h : Ahead t n m) : remaining m.dir m.pos t = n := by
  unfold Ahead at h
  unfold Machine.remaining
  cases hd : m.dir <;> rw [hd] at h <;> simp only at h ⊢ <;> omega

/-- R86: a step toward a tick of the counter's range. -/
theorem Ahead.count {t : Int} {n : Nat} {m : Motion} (h : Ahead t (n + 1) m) (reach : InReach t m.dir) :
    Ahead t n (countStep m) := by
  have dir : (countStep m).dir = m.dir := rfl
  unfold Ahead InReach at *
  rw [dir]
  cases hd : m.dir <;> rw [hd] at h reach <;> simp only at h reach ⊢
  · rw [count_pos_fwd m hd (by omega)]
    omega
  · rw [count_pos_rev m hd (by omega)]
    omega

/-- A move without a zeroing seek or a pending request, `n` ticks before the tick `t`, under the reference `ref`. -/
structure Course (t : Int) (ref : Bool) (n : Nat) (m : Motion) : Prop where
  seek : m.seek = .none
  waiting : m.waiting = none
  ref : m.refValid = ref
  reach : InReach t m.dir
  ahead : Ahead t n m

theorem Course.count {t : Int} {ref : Bool} {n : Nat} {m : Motion} (h : Course t ref (n + 1) m) :
    Course t ref n (countStep m) :=
  ⟨h.seek, h.waiting, h.ref, h.reach, h.ahead.count h.reach⟩

/-- What a ramp leaves of a move. -/
structure SameMove (m k : Motion) : Prop where
  seek : k.seek = m.seek
  waiting : k.waiting = m.waiting
  request : k.request = m.request
  dir : k.dir = m.dir
  tick : k.tick = m.tick
  ref : k.refValid = m.refValid
  overshoot : k.overshoot = m.overshoot

theorem SameMove.refl (m : Motion) : SameMove m m := ⟨rfl, rfl, rfl, rfl, rfl, rfl, rfl⟩

theorem SameMove.trans {m k l : Motion} (h : SameMove m k) (h' : SameMove k l) : SameMove m l :=
  ⟨h'.seek.trans h.seek, h'.waiting.trans h.waiting, h'.request.trans h.request, h'.dir.trans h.dir,
    h'.tick.trans h.tick, h'.ref.trans h.ref, h'.overshoot.trans h.overshoot⟩

theorem SameMove.ahead {t : Int} {n : Nat} {m k : Motion} (h : SameMove m k) (ha : Ahead t n m) : Ahead t n k := by
  unfold Ahead Motion.pos at *
  rw [h.dir, h.tick]
  exact ha

theorem SameMove.course {t : Int} {ref : Bool} {n : Nat} {m k : Motion} (h : SameMove m k) (hc : Course t ref n m) :
    Course t ref n k :=
  ⟨h.seek.trans hc.seek, h.waiting.trans hc.waiting, h.ref.trans hc.ref, h.dir ▸ hc.reach, h.ahead hc.ahead⟩

/-- R81: at rest on the tick `t` after an overshoot of `spent` ticks, under the reference `ref`. -/
structure RestsAt (t : Int) (ref : Bool) (spent : Nat) (m : Motion) : Prop where
  state : m.state = .stopped
  rate : m.rate = 0
  request : m.request = none
  overshoot : m.lastOvershoot = BitVec.ofNat 16 spent
  ref : m.refValid = ref
  pos : m.pos = t

/-- R81: the rest at the end of a move. -/
theorem Course.rests {t : Int} {ref : Bool} {m : Motion} (h : Course t ref 0 m) (stalls : Nat) :
    RestsAt t ref m.overshoot { (restNow m).motion with stallCount := stalls } := by
  have pos : m.pos = t := by
    have ahead := h.ahead
    unfold Ahead at ahead
    split at ahead <;> simpa using ahead
  rw [restNow_ends h.waiting]
  exact ⟨rfl, rfl, rfl, rfl, h.ref, pos⟩

/-! ### The ramp down (R79) -/

/-- R79: decelerating to rest, `n` steps before the rest. -/
structure Falling (c : Setup) (n : Nat) (m : Motion) : Prop where
  state : m.state = .decelerating
  toRest : m.toRest = true
  ramp : m.ramp < c.decel.toNat
  above : c.startRate.toNat < m.rate
  left : (m.rate - c.startRate.toNat) * c.decel.toNat = n + m.ramp

theorem Falling.moving {c : Setup} {n : Nat} {m : Motion} (h : Falling c n m) : m.moving = true := by
  simp [Motion.moving, h.state]

/-- R79: what a step of the ramp down makes of a move, `n` steps being left after it. -/
structure Fell (c : Setup) (n : Nat) (m : Motion) (r : Ramp) : Prop where
  same : SameMove m r.motion
  decel : r.motion.decel = m.decel
  arrives : r.arrived = decide (n = 0)
  falling : n ≠ 0 → Falling c n r.motion

/-- R79: a step on which no fall is due leaves the rate; one on which it is due takes DECEL RAMP steps off what is left. -/
theorem Falling.fell {c : Setup} {n : Nat} {m : Motion} (h : Falling c (n + 1) m) :
    Fell c n (countStep m) (rampStep c (countStep m)) := by
  obtain ⟨state, rest, below, above, left⟩ := h
  have braking : (countStep m).toRest = true := rest
  rw [rampStep, if_pos braking]
  unfold brakeStep
  by_cases due : c.decel.toNat ≤ (countStep m).ramp
  · have ramp : m.ramp + 1 = c.decel.toNat := Nat.le_antisymm below due
    have fall : (m.rate - 1 - c.startRate.toNat) * c.decel.toNat = n := by
      have split : m.rate - c.startRate.toNat = (m.rate - 1 - c.startRate.toNat) + 1 := by omega
      rw [split, Nat.succ_mul] at left
      omega
    have last : m.rate - 1 ≤ c.startRate.toNat ↔ n = 0 := by
      rw [← fall, Nat.mul_eq_zero]
      omega
    rw [if_pos due]
    refine ⟨⟨rfl, rfl, rfl, rfl, rfl, rfl, rfl⟩, rfl, decide_eq_decide.2 last, fun more => ?_⟩
    exact ⟨state, rest, Nat.lt_of_le_of_lt (Nat.zero_le _) below, Nat.not_le.1 (mt last.1 more), fall⟩
  · have early : m.ramp + 1 < c.decel.toNat := Nat.not_le.1 due
    have more : n ≠ 0 := by
      have fall : c.decel.toNat ≤ (m.rate - c.startRate.toNat) * c.decel.toNat :=
        Nat.le_mul_of_pos_left _ (by omega)
      omega
    rw [if_neg due]
    refine ⟨⟨rfl, rfl, rfl, rfl, rfl, rfl, rfl⟩, rfl, (decide_eq_false more).symm, fun _ => ?_⟩
    exact ⟨state, rest, early, above, left.trans (Nat.add_right_comm n 1 m.ramp)⟩

/-! ### The unplanned stop (R79, R81) -/

/-- R90: a tick short of the travel limit that lies in this direction. -/
def ShortOfLimit (c : Setup) (t : Int) (d : Dir) : Prop :=
  match d with
  | .forward => t < c.maxTape.toNat
  | .reverse => 0 ≤ t

/-- R81, R86: an unplanned stop `n` steps before its rest on the tick `t`, which ends an overshoot of `spent` ticks. -/
def Stopping (c : Setup) (t : Int) (ref : Bool) (spent : Nat) (n : Nat) (m : Motion) : Prop :=
  match n with
  | 0 => RestsAt t ref spent m
  | n + 1 => Course t ref (n + 1) m ∧ ShortOfLimit c t m.dir ∧ Falling c (n + 1) m ∧ m.decel = .unplanned ∧
      m.overshoot + (n + 1) = spent

theorem markerAhead_released {e : CtlEnv} (hb : e.bots = false) (he : e.eots = false) (d : Dir) :
    markerAhead e d = none := by
  cases d <;> simp [markerAhead, hb, he]

/-- R89, R90: on the way to a tick short of the limits nothing is met. -/
theorem boundaryMet_short {e : CtlEnv} {t : Int} {n : Nat} {m : Motion} (hb : e.bots = false) (he : e.eots = false)
    (h : Ahead t n m) (hs : ShortOfLimit e.setup t m.dir) : boundaryMet e m = none := by
  have limit : limitReached e.setup m = none := by
    unfold Ahead at h
    unfold ShortOfLimit at hs
    unfold limitReached
    cases hd : m.dir <;> rw [hd] at h hs <;> simp only at h hs ⊢ <;> exact if_neg (by omega)
  simp [boundaryMet, markerAhead_released hb he, limit]

/-- The stall count does not concern a move. -/
theorem SameMove.stalls (m : Motion) (n : Nat) : SameMove m { m with stallCount := n } :=
  ⟨rfl, rfl, rfl, rfl, rfl, rfl, rfl⟩

theorem Falling.stalls {c : Setup} {n : Nat} {m : Motion} (h : Falling c n m) (k : Nat) :
    Falling c n { m with stallCount := k } := ⟨h.state, h.toRest, h.ramp, h.above, h.left⟩

theorem Stopping.step {e : CtlEnv} {t : Int} {ref : Bool} {spent n : Nat} {m : Motion}
    (hb : e.bots = false) (he : e.eots = false) (h : Stopping e.setup t ref spent (n + 1) m) :
    Stopping e.setup t ref spent n (stepOnce e m).motion := by
  obtain ⟨course, short, falling, unplanned, count⟩ := h
  have counted : (countStep m).overshoot = m.overshoot + 1 := by simp [countStep, unplanned]
  have fell := falling.fell
  have going := fell.same.course course.count
  have step := stepOnce_clear course.seek (boundaryMet_short hb he course.count.ahead short)
  obtain ⟨stalls, eq⟩ := endStep_motion e.setup (firstRate (countStep m)) (rampStep e.setup (countStep m))
  rw [step, eq, fell.arrives]
  have spends := fell.same.overshoot.trans counted
  cases n with
  | zero =>
    have rests := going.rests stalls
    rw [spends, count] at rests
    exact rests
  | succ n =>
    refine ⟨(SameMove.stalls _ stalls).course going, ?_, (fell.falling n.succ_ne_zero).stalls stalls,
      fell.decel.trans unplanned, ?_⟩
    · exact fell.same.dir ▸ short
    · show (rampStep e.setup (countStep m)).motion.overshoot + (n + 1) = spent
      omega

/-- Settles O35: the stop is one step nearer its rest with every step. -/
theorem brakingDistance : Obligations.BrakingDistance := by
  unfold Obligations.BrakingDistance
  intro e m range hb he state unplanned seek waiting ramp fresh above _ n way
  obtain ⟨-, -, -, -, -, -, decel, -, -, -, -, ⟨-, top⟩, -⟩ := range
  let t : Int := match m.dir with | .forward => m.pos + n | .reverse => m.pos - n
  have reach : ShortOfLimit e.setup t m.dir ∧ InReach t m.dir ∧ Ahead t n m := by
    unfold ShortOfLimit InReach Ahead
    cases hd : m.dir <;> simp only [t, hd] at way ⊢
    · exact ⟨way, by omega, trivial⟩
    · exact ⟨way, way, trivial⟩
  obtain ⟨short, reach, ahead⟩ := reach
  have some : 0 < n := Nat.mul_pos (by omega) decel
  have stopping : Stopping e.setup t m.refValid n n m := by
    obtain ⟨j, hj⟩ : ∃ j, n = j + 1 := ⟨n - 1, by omega⟩
    have falling : Falling e.setup n m := ⟨state, by simp [Motion.toRest, unplanned], by omega, above, by rw [ramp]; rfl⟩
    have course : Course t m.refValid n m := ⟨seek, waiting, rfl, reach, ahead⟩
    rw [hj] at falling course ⊢
    exact ⟨course, short, falling, unplanned, by rw [fresh]; exact Nat.zero_add _⟩
  have moves (j : Nat) (k : Motion) (h : Stopping e.setup t m.refValid n (j + 1) k) : k.moving = true := by
    obtain ⟨-, -, falling, -⟩ := h
    exact falling.moving
  obtain ⟨moving, rests⟩ := stepsOf_countdown moves (fun _ _ => Stopping.step hb he) n m stopping
  obtain ⟨stopped, rate, request, overshoot, ref, pos⟩ := rests
  exact ⟨moving, stopped, rate, request, overshoot, ref, pos⟩

/-! ### The move-to (R77, R78, R80) -/

/-- R78, R80: a move with room to brake from its rate within `n` ticks, not yet decelerating. -/
structure Roomy (c : Setup) (n : Nat) (m : Motion) : Prop where
  state : m.state = .accelerating ∨ m.state = .cruising
  decel : m.decel = .none
  rate : c.startRate.toNat ≤ m.rate
  room : braking c m.rate ≤ n

theorem Roomy.moving {c : Setup} {n : Nat} {m : Motion} (h : Roomy c n m) : m.moving = true := by
  rcases h.state with k | k <;> simp [Motion.moving, k]

theorem Roomy.stalls {c : Setup} {n : Nat} {m : Motion} (h : Roomy c n m) (k : Nat) :
    Roomy c n { m with stallCount := k } := ⟨h.state, h.decel, h.rate, h.room⟩

theorem target_of_request {m : Motion} {t : Int} {r : Nat} (h : m.request = some (.moveTo t r)) : m.target = some t := by
  rw [Motion.target, h]

/-- R80, first test: a rise is made only with room to brake from the rate it leads to. -/
theorem Roomy.rise {c : Setup} {t : Int} {r n : Nat} {m : Motion} (h : Roomy c n m) (ahead : Ahead t n m)
    (request : m.request = some (.moveTo t r)) : SameMove m (riseStep c m).1 ∧ Roomy c n (riseStep c m).1 := by
  obtain ⟨state, decel, rate, room⟩ := h
  unfold riseStep
  split
  · split
    · rename_i allowed
      have higher : braking c (m.rate + 1) ≤ n := by
        simpa [riseAllowed, target_of_request request, ahead.remaining] using allowed
      have above : c.startRate.toNat ≤ m.rate + 1 := Nat.le_succ_of_le rate
      dsimp only
      split
      · exact ⟨⟨rfl, rfl, rfl, rfl, rfl, rfl, rfl⟩, .inr rfl, decel, above, higher⟩
      · exact ⟨⟨rfl, rfl, rfl, rfl, rfl, rfl, rfl⟩, state, decel, above, higher⟩
    · exact ⟨⟨rfl, rfl, rfl, rfl, rfl, rfl, rfl⟩, .inr rfl, decel, rate, room⟩
  · exact ⟨.refl m, state, decel, rate, room⟩

/-- R80, second test: what the plan makes of a move with `n` ticks left after this step. -/
structure Planned (c : Setup) (n : Nat) (m : Motion) (arrived : Bool) : Prop where
  arrives : arrived = decide (n = 0)
  goes : ∀ j, n = j + 1 → (Falling c n m ∧ m.decel = .planned) ∨ Roomy c j m

/-- R80: the planned stop begins where exactly the braking distance is left, and the move has arrived where none is. -/
theorem Roomy.plan {c : Setup} {t : Int} {r n : Nat} {m : Motion} (h : Roomy c n m) (ahead : Ahead t n m)
    (request : m.request = some (.moveTo t r)) (hd : 1 ≤ c.decel.toNat) :
    SameMove m (planStop c m).1 ∧ Planned c n (planStop c m).1 (planStop c m).2 := by
  obtain ⟨state, decel, rate, room⟩ := h
  rw [planStop, target_of_request request]
  dsimp only
  rw [ahead.remaining]
  by_cases due : (n : Int) ≤ braking c m.rate
  · have exact_room : braking c m.rate = n := Nat.le_antisymm room (Int.ofNat_le.1 due)
    have slow : m.rate ≤ c.startRate.toNat ↔ n = 0 := by
      rw [← exact_room, braking, Nat.mul_eq_zero]
      omega
    rw [if_pos due]
    refine ⟨⟨rfl, rfl, rfl, rfl, rfl, rfl, rfl⟩, decide_eq_decide.2 slow, fun j hj => .inl ⟨?_, rfl⟩⟩
    have above : c.startRate.toNat < m.rate := Nat.not_le.1 (mt slow.1 (by omega))
    exact ⟨rfl, rfl, hd, above, exact_room⟩
  · have more : braking c m.rate < n := by omega
    rw [if_neg due]
    refine ⟨.refl m, (decide_eq_false (by omega)).symm, fun j hj => .inr ?_⟩
    have room : braking c m.rate ≤ j := by omega
    exact ⟨state, decel, rate, room⟩

/-- R78, R80: a step of a move-to that is not decelerating. -/
theorem Roomy.ramps {c : Setup} {t : Int} {r n : Nat} {m : Motion} (h : Roomy c n m) (ahead : Ahead t n m)
    (request : m.request = some (.moveTo t r)) (hd : 1 ≤ c.decel.toNat) :
    SameMove m (rampStep c m).motion ∧ Planned c n (rampStep c m).motion (rampStep c m).arrived := by
  have free : ¬ m.toRest = true := by simp [Motion.toRest, h.decel]
  have planned (k : Motion) (same : SameMove m k) (roomy : Roomy c n k) :
      SameMove m (planStop c k).1 ∧ Planned c n (planStop c k).1 (planStop c k).2 := by
    obtain ⟨kept, plan⟩ := roomy.plan (same.ahead ahead) (same.request.trans request) hd
    exact ⟨same.trans kept, plan⟩
  rw [rampStep, if_neg free]
  rcases h.state with state | state <;> simp only [state]
  · obtain ⟨same, roomy⟩ := h.rise ahead request
    exact planned _ same roomy
  · exact planned _ ⟨rfl, rfl, rfl, rfl, rfl, rfl, rfl⟩ ⟨.inr rfl, h.decel, h.rate, h.room⟩

/-- R77, R80, R81: a move-to at rate `r`, `n` steps before its rest on the target `t`. -/
def Arriving (c : Setup) (t : Int) (r : Nat) (ref : Bool) (n : Nat) (m : Motion) : Prop :=
  match n with
  | 0 => RestsAt t ref 0 m
  | n + 1 => Course t ref (n + 1) m ∧ m.request = some (.moveTo t r) ∧ m.overshoot = 0 ∧
      ((Falling c (n + 1) m ∧ m.decel = .planned) ∨ Roomy c n m)

/-- R90: a move-to within the limits is met by none. -/
theorem boundaryMet_exempt {e : CtlEnv} {t : Int} {r : Nat} {m : Motion} (hb : e.bots = false) (he : e.eots = false)
    (low : 0 ≤ t) (high : t ≤ e.setup.maxTape.toNat) (request : m.request = some (.moveTo t r))
    (decel : m.decel ≠ .unplanned) : boundaryMet e m = none := by
  have below : -1 ≤ t := by omega
  have exempt : limitExempt e.setup m = true := by
    simp [limitExempt, target_of_request request, below, high, decel]
  simp [boundaryMet, markerAhead_released hb he, exempt]

theorem Arriving.step {e : CtlEnv} {t : Int} {r n : Nat} {ref : Bool} {m : Motion} (hb : e.bots = false)
    (he : e.eots = false) (hd : 1 ≤ e.setup.decel.toNat) (low : 0 ≤ t) (high : t ≤ e.setup.maxTape.toNat)
    (h : Arriving e.setup t r ref (n + 1) m) : Arriving e.setup t r ref n (stepOnce e m).motion := by
  obtain ⟨course, request, overshoot, phase⟩ := h
  have planned : m.decel ≠ .unplanned := by
    rcases phase with ⟨-, decel⟩ | roomy
    · simp [decel]
    · simp [roomy.decel]
  have counted : (countStep m).overshoot = 0 := by simp [countStep, planned, overshoot]
  have ramped : SameMove (countStep m) (rampStep e.setup (countStep m)).motion ∧
      Planned e.setup n (rampStep e.setup (countStep m)).motion (rampStep e.setup (countStep m)).arrived := by
    rcases phase with ⟨falling, decel⟩ | ⟨state, decel, rate, room⟩
    · have fell := falling.fell
      exact ⟨fell.same, fell.arrives, fun j hj => .inl ⟨fell.falling (by omega), fell.decel.trans decel⟩⟩
    · exact Roomy.ramps (m := countStep m) ⟨state, decel, rate, room⟩ course.count.ahead request hd
  obtain ⟨same, plan⟩ := ramped
  have going := same.course course.count
  have met := boundaryMet_exempt (m := countStep m) hb he low high request planned
  obtain ⟨stalls, eq⟩ := endStep_motion e.setup (firstRate (countStep m)) (rampStep e.setup (countStep m))
  rw [stepOnce_clear course.seek met, eq, plan.arrives]
  have spends := same.overshoot.trans counted
  cases n with
  | zero =>
    have rests := going.rests stalls
    rw [spends] at rests
    exact rests
  | succ n =>
    refine ⟨(SameMove.stalls _ stalls).course going, same.request.trans request, spends, ?_⟩
    exact (plan.goes n rfl).imp (fun ⟨falling, decel⟩ => ⟨falling.stalls stalls, decel⟩) (·.stalls stalls)

/-- R77: a move-to that nothing forbids starts at START RATE. -/
theorem startMove_arriving {e : CtlEnv} {m : Motion} {t : Int} {r : Nat} (hb : e.bots = false) (he : e.eots = false)
    (range : SetupInRange e.setup) (hq : m.request = some (.moveTo t r)) (hw : m.waiting = none) (hs : m.seek = .none)
    (ho : m.overshoot = 0) (low : 0 ≤ t) (high : t ≤ e.setup.maxTape.toNat) (away : t ≠ m.pos)
    (hd : m.dir = if m.pos < t then .forward else .reverse) :
    Arriving e.setup t r m.refValid (t - m.pos).natAbs (startMove e m).motion := by
  obtain ⟨-, -, -, -, -, -, -, -, -, -, -, ⟨-, top⟩, -⟩ := range
  obtain ⟨j, hj⟩ : ∃ j, (t - m.pos).natAbs = j + 1 := ⟨(t - m.pos).natAbs - 1, by omega⟩
  have way : InReach t m.dir ∧ Ahead t (j + 1) m ∧ limitAt e.setup m = none := by
    unfold InReach Ahead limitAt
    rw [hd]
    by_cases forward : m.pos < t
    · simp only [if_pos forward]
      exact ⟨by omega, by omega, if_neg (by omega)⟩
    · simp only [if_neg forward]
      exact ⟨by omega, by omega, if_neg (by omega)⟩
  obtain ⟨reach, ahead, limit⟩ := way
  have free : startRefused e m = none := by simp [startRefused, hs, markerAhead_released hb he, limit]
  rw [startMove, free, hj]
  refine ⟨⟨hs, hw, rfl, reach, ahead⟩, hq, ho, .inr ⟨?_, rfl, Nat.le_refl _, ?_⟩⟩
  · dsimp only
    split
    · exact .inr rfl
    · exact .inl rfl
  · simp [braking]

/-- Settles O36: the move is one tick nearer its target with every step. -/
theorem plannedMoveArrives : Obligations.PlannedMoveArrives := by
  unfold Obligations.PlannedMoveArrives
  intro e m t r range hb he _ request waiting seek overshoot _ _ low high away dir first n
  have starts : Arriving e.setup t r m.refValid n first :=
    startMove_arriving hb he range request waiting seek overshoot low high away dir
  obtain ⟨-, -, -, -, -, -, decel, -⟩ := range
  have moves (j : Nat) (k : Motion) (h : Arriving e.setup t r m.refValid (j + 1) k) : k.moving = true := by
    obtain ⟨-, -, -, ⟨falling, -⟩ | roomy⟩ := h
    · exact falling.moving
    · exact roomy.moving
  obtain ⟨moving, rests⟩ := stepsOf_countdown moves (fun _ _ => Arriving.step hb he decel low high) n first starts
  exact ⟨moving, rests.state, rests.pos, rests.overshoot, rests.request, rests.ref⟩

end Sys2Proof.Machine
end

section
/-! SUPPORT. How a move starts (R77, R82, R83, R88): the end of the waits, the zeroing seek and its exhaustion, the run of an
order that waited, and the statements about them. -/

namespace Sys2Proof.Machine

/-! ### The end of a wait (R77, R82) -/

theorem exec_dwellExpiry {s : State} (h : s.motion.state = .dwell) : exec .dwellExpiry s =
    .next (settle (handOver (startMove (ctlEnv s) s.motion) s)) := by
  have ends : waitOver (ctlEnv s) s.motion = startMove (ctlEnv s) s.motion := by rw [waitOver, h]
  rw [← ends]
  exact if_pos h

theorem exec_settleDelayExpiry {s : State} (h : s.motion.settling = true) (hs : s.motion.state = .stopped) :
    exec .settleDelayExpiry s =
      .next (settle (handOver (goOn (ctlEnv s) { s.motion with settling := false, settleTimer := 0 }) s)) := by
  have ends : waitOver (ctlEnv s) s.motion = goOn (ctlEnv s) { s.motion with settling := false, settleTimer := 0 } := by
    simp only [waitOver, hs, if_pos h]
  rw [← ends]
  exact if_pos h

/-- R77, R89, R90: a start that a marker or a limit forbids. -/
theorem startMove_refused {e : CtlEnv} {m : Motion} {r : BoundaryReason} (h : startRefused e m = some r) :
    startMove e m = {
      motion := { m.rested with request := none, waiting := none, seek := .none, overshoot := 0, lastOvershoot := 0 }
      events := [.boundary r, .stoppedAt m.tick 0 false] } := by
  rw [startMove, h]

/-- R77: a start that nothing forbids, at START RATE. -/
theorem startMove_allowed {e : CtlEnv} {m : Motion} (h : startRefused e m = none) : startMove e m = {
      motion := { m with
        state := if m.wanted ≤ e.setup.startRate.toNat then .cruising else .accelerating
        rate := e.setup.startRate.toNat
        ramp := 0, decel := .none, sensed := false, bounded := false, stallCount := 0, steady := 0
        dwellTimer := 0, run := 0 }
      events := [] } := by
  rw [startMove, h]

theorem startMove_kept (e : CtlEnv) (m : Motion) : Kept m (startMove e m).motion := by
  unfold startMove
  split <;> exact ⟨rfl, rfl, rfl⟩

/-- Settles O37: the wait that runs out is the start of its move. -/
theorem waitExpiry : Obligations.WaitExpiry := by
  unfold Obligations.WaitExpiry
  intro s
  refine ⟨fun h => if_neg h, fun h => if_neg (by simp [h]), fun dwell o ho => ?_, fun settling stopped o ho => ?_⟩
  · have kept := startMove_kept (ctlEnv s) s.motion
    subst ho
    refine ⟨exec_dwellExpiry dwell, kept.tick, kept.ref, fun free => ?_, fun r refused => ?_⟩
    · rw [startMove_allowed free]
      refine ⟨rfl, ?_, rfl, rfl, rfl, rfl⟩
      unfold Motion.moving
      by_cases slow : s.motion.wanted ≤ (ctlEnv s).setup.startRate.toNat <;> simp [slow]
    · rw [startMove_refused refused]
      exact ⟨rfl, rfl, rfl, rfl⟩
  · rw [ho]
    exact exec_settleDelayExpiry settling stopped

/-! ### The active order in its place -/

/-- R28: the part with an order in the active order slot. -/
def State.running (s : State) (a : Active) : State := { s with seq := { s.seq with active := some a } }

theorem onActive_running {s : State} {a : Active} (f : Active → Active) (ha : s.seq.active = some a) :
    onActive f s = s.running (f a) := onActive_some f ha

/-- Log 6: one event whose consequence leaves nothing due. -/
theorem settle_event {s t : State} {e : MotionEvent} (h : s.events = [e]) (ht : onEvent e { s with events := [] } = t)
    (hs : Steady t) : settle s = t := by
  rw [settle, Config.settleFuel, settleFor_event h, ht, settleFor_steady hs]

/-! ### An exhausted seek (R88, R100) -/

/-- R81, R88: an exhausted seek begins its stop above START RATE. -/
theorem exhaustSeek_braked {s : State} (hr : (profile s).startRate.toNat < s.motion.rate) (hA : Anchored s) :
    exhaustSeek s = { s with
      motion := { s.motion.braked with seek := .ended }, events := s.events ++ [.boundary .seekExhausted] } := by
  have stop : beginStop (profile s) (seekOver s.motion) =
      { motion := { s.motion.braked with seek := .ended }, events := [] } :=
    beginStop_braked (m := { s.motion with seek := .ended }) hr
  have place := anchored_place hA { s.motion.braked with seek := .ended } rfl
  simp only [exhaustSeek, stop, handOver, place]

/-- R52, R100: the order after a seek that has found nothing, which is its first cause. -/
def Active.seekLost (a : Active) : Active :=
  { a with cause := some { cause := .loadFailed, stage := a.stage }, final := some none, phase := .ending
           stage := .reference }

theorem seekFailed_first {s : State} {a : Active} (ha : s.seq.active = some a) (hc : a.cause = none)
    (hn : stopWanted s a = false) : seekFailed s = s.running a.seekLost := by
  let b : Active := { a with cause := some { cause := .loadFailed, stage := a.stage } }
  have raised : raise .loadFailed s = s.running b := by
    rw [raise_some _ ha, hc]
    rfl
  have kept : raiseStop (s.running b) = s.running b := raiseStop_none rfl hn
  rw [seekFailed, raised, kept]
  rfl

/-- Settles O39: the boundary of the exhaustion is the one thing that follows. -/
theorem seekExhausted : Obligations.SeekExhausted := by
  unfold Obligations.SeekExhausted
  intro a s
  refine ⟨fun h => if_neg (by simp [h]), fun under running => ?_⟩
  have above : (profile s).startRate.toNat < s.motion.rate := by
    rw [profile, under.active]
    exact under.above
  let u : State := { s with motion := { s.motion.braked with seek := .ended } }
  have handed : exhaustSeek s = { u with events := [.boundary .seekExhausted] } := by
    rw [exhaustSeek_braked above under.anchored, under.events]
    rfl
  have active : u.seq.active = some a := under.active
  have taken : onEvent (.boundary .seekExhausted) { u with events := [] } = u.running a.seekLost := by
    have quiet : { u with events := [] } = u := by
      simp only [u, ← under.events]
    have met : onBoundary .seekExhausted u = seekFailed u := by
      simp only [onBoundary, active, if_true]
    rw [quiet]
    exact met.trans (seekFailed_first active under.cause under.noStop)
  have steady : Steady (u.running a.seekLost) :=
    steady_of under.events under.awake rfl (by simp [Active.seekLost]) (by simp [Active.seekLost])
  have run : exec .seekExhausted s = .next (settle (exhaustSeek s)) := if_pos running
  have settles : settle { u with events := [.boundary .seekExhausted] } = u.running a.seekLost :=
    settle_event (s := { u with events := [.boundary .seekExhausted] }) rfl taken steady
  rw [run, handed, settles]
  rfl

/-! ### A request of a transport at rest (R77, R82, R83) -/

/-- R83: the Sequencer's request in a part that is awake. -/
theorem ask_awake {s : State} (h : s.power.state ≠ .standby) (q : Request) :
    ask q s = handOver (requestMove (ctlEnv s) 0 s.motion q) s := by
  have stays : endsStandby q s = false := by simp [endsStandby, h]
  rw [ask, stays, if_neg Bool.false_ne_true]

theorem requestMove_stopped {e : CtlEnv} {m : Motion} {q : Request} (h : m.state = .stopped) (hs : m.settling = false) :
    requestMove e 0 m q = goOn e (m.opening q) := by
  simp [requestMove, h, hs]

/-- R82: a run against the direction of the last step dwells first. -/
theorem launch_dwells {e : CtlEnv} {m : Motion} {d : Dir} (h : m.lastDir = some d.flip)
    (hd : e.setup.reversalDwell ≠ 0) : launch e m d = {
      motion := { m with state := .dwell, dir := d, dwellTimer := e.setup.reversalDwell.toNat }, events := [] } := by
  have dwell : e.setup.reversalDwell.toNat ≠ 0 := fun k => hd (BitVec.eq_of_toNat_eq k)
  rw [launch, if_pos (by simp [h, dwell])]

/-- R82, R127, R131: the controller as a run forward dwells. -/
def Motion.dwellsForward (m : Motion) (c : Setup) : Motion :=
  { m with
    seek := .none, request := some (.run .forward c.streamRate.toNat), overshoot := 0
    state := .dwell, dir := .forward, dwellTimer := c.reversalDwell.toNat }

/-- R82, R127, R131: a run forward at STREAM RATE after a move in reverse, of an order in a part that is awake and at rest. -/
theorem streamRun_dwells {s : State} {a : Active} (hp : s.power.state = .active) (hA : Anchored s)
    (hm : s.motion.state = .stopped) (hs : s.motion.settling = false) (hl : s.motion.lastDir = some .reverse)
    (hd : a.snap.reversalDwell ≠ 0) :
    streamRun (s.running a) = { s.running a with motion := s.motion.dwellsForward a.snap } := by
  let q : Request := .run .forward a.snap.streamRate.toNat
  have moves : requestMove (ctlEnv (s.running a)) 0 s.motion q =
      { motion := s.motion.dwellsForward a.snap, events := [] } :=
    (requestMove_stopped hm hs).trans (launch_dwells (m := s.motion.opening q) (d := .forward) hl hd)
  have asked : streamRun (s.running a) = handOver (requestMove (ctlEnv (s.running a)) 0 s.motion q) (s.running a) :=
    ask_awake (s := s.running a) (by simp [State.running, hp]) q
  have place := anchored_place hA (s.motion.dwellsForward a.snap) rfl
  rw [asked, moves]
  simp only [handOver, List.append_nil, State.running, place]

/-- R99, R127: a reading order runs from its slot, counting its gap from there. -/
theorem beginRun_read {s : State} {a : Active} (ha : s.seq.active = some a) (hr : a.isRead = true)
    (hw : a.isWrite = false) : beginRun s = streamRun (s.running { a with
      phase := .scan, stage := .scan, gap := 0
      scan := { a.scan with origin := (s.place.position.map Position.slot).getD 0 } }) := by
  simp only [beginRun, ha, hr, hw, Bool.false_eq_true, if_false, if_true, setPhase, onActive_running _ ha, scanFrom]
  rfl

/-- R131: an order of the write class runs to confirm its append point. -/
theorem beginRun_write {s : State} {a : Active} (ha : s.seq.active = some a) (hw : a.isWrite = true) :
    beginRun s = streamRun (s.running { a with phase := .confirm, stage := .scan }) := by
  simp only [beginRun, ha, hw, if_true, setPhase, onActive_running _ ha]

/-- Settles O47: the run dwells, and nothing else is due. -/
theorem runsForward : Obligations.RunsForward := by
  unfold Obligations.RunsForward
  intro s
  refine ⟨fun h => if_neg (by simp [h]), fun h => if_neg (by simp [h]), ?_⟩
  intro a active events awake anchored stopped settling last dwell m
  have dwells (b : Active) (snap : b.snap = a.snap) (wait : b.phase ≠ .waitBank ∧ b.phase ≠ .repWait) :
      settle (streamRun (s.running b)) = { s.running b with motion := m } := by
    have back : b.snap.reversalDwell ≠ 0 := by rw [snap]; exact dwell
    have run : s.motion.dwellsForward b.snap = m := by rw [snap]; rfl
    rw [streamRun_dwells awake anchored stopped settling last back, run]
    exact settle_waiting (a := b) rfl events wait
  refine ⟨fun due read write => ?_, fun due write => ?_⟩
  · have run : exec .repositionResume s = .next (settle (beginRun s)) := if_pos due
    rw [run, beginRun_read active read write]
    exact congrArg _ (dwells { a with phase := .scan, stage := .scan, gap := 0, scan := _ } rfl ⟨nofun, nofun⟩)
  · have run : exec .writeWaitEnd s = .next (settle (beginRun s)) := if_pos due
    rw [run, beginRun_write active write]
    exact congrArg _ (dwells { a with phase := .confirm, stage := .scan } rfl ⟨nofun, nofun⟩)

/-! ### Orders that begin with a zeroing seek (R88, R101 to R103, R105) -/

/-- R88: the start of a zeroing seek makes the reference INVALID, and hands no event: no marker and no limit forbids it. -/
theorem requestSeek_stopped {e : CtlEnv} {m : Motion} (h : m.state = .stopped) (hs : m.settling = false) (r : Nat) :
    (requestMove e 0 m (.seek r)).events = [] ∧ (requestMove e 0 m (.seek r)).motion.refValid = false := by
  have begins : requestMove e 0 m (.seek r) = launch e (seekBegins e (m.opening (.seek r))) (seekDir e) :=
    requestMove_stopped h hs
  rw [begins, launch]
  split
  · exact ⟨rfl, rfl⟩
  · have seeks (d : Dir) : startRefused e { seekBegins e (m.opening (.seek r)) with dir := d } = none := by
      refine if_pos ?_
      show (if e.bots then SeekPhase.offMarker else .seeking) != .none
      cases e.bots <;> rfl
    rw [startMove_allowed (seeks _)]
    exact ⟨rfl, rfl⟩

/-- R88: a zeroing seek of the order in a part that is awake and at rest. -/
theorem zeroSeek_starts {s : State} {a : Active} (hp : s.power.state = .active) (hm : s.motion.state = .stopped)
    (hs : s.motion.settling = false) : zeroSeek (s.running a) = { s.running { a with phase := .seek, stage := .reference } with
      place := { s.place with position := none }
      motion := (requestMove { setup := a.snap, bots := s.inputs.bots, eots := s.inputs.eots } 0 s.motion
        (.seek a.snap.searchRate.toNat)).motion } := by
  let u : State := s.running { a with phase := .seek, stage := .reference }
  let e : CtlEnv := { setup := a.snap, bots := s.inputs.bots, eots := s.inputs.eots }
  obtain ⟨quiet, invalid⟩ := requestSeek_stopped (e := e) hm hs a.snap.searchRate.toNat
  have asked : zeroSeek (s.running a) = handOver (requestMove e 0 s.motion (.seek a.snap.searchRate.toNat)) u :=
    ask_awake (s := u) (by simp [u, State.running, hp]) _
  rw [asked, handOver, quiet, invalid]
  simp only [List.append_nil, Bool.false_eq_true, if_false]
  rfl

/-- Settles O26: the order departs at once, and its seek starts from the rest. -/
theorem seekStarts : Obligations.SeekStarts := by
  unfold Obligations.SeekStarts
  intro i code k s hi hk h hc kinds a
  let b : Active := { a with
    scan := { a.scan with target := if k = .locate then (paramBlock s.seq.staging).toNat else 0 } }
  let u : State := { departed code s with place := { s.place with
    position := none
    cart := if k = .load then .loading else s.place.cart
    wpLatch := if k = .load then s.inputs.wprot.level else s.place.wpLatch } }
  have begins : beginOrder k s.seq.staging (departed code s) = zeroSeek (u.running b) := by
    rcases kinds with rfl | rfl | ⟨rfl | rfl, invalid⟩
    · rfl
    · rfl
    · exact if_neg (by simp [departed, forgetPosition, invalid])
    · exact if_neg (by simp [departed, forgetPosition, onActive, invalid])
  have positioning : k.isWrite = false := by
    rcases kinds with rfl | rfl | ⟨rfl | rfl, -⟩ <;> rfl
  have starts := ((h.departEntry_begins hc hk).trans begins).trans
    (zeroSeek_starts (s := u) h.awake h.rest.1 h.rest.2)
  have awake : s.power.state ≠ .sleepPending := by simp [h.awake]
  rw [h.exec_departs hi (by simp [hk, positioning]) starts (steady_of h.events awake rfl (by simp) (by simp))]
  rfl

end Sys2Proof.Machine
end

section
/-! SUPPORT. What a forced sleep entry leaves (R84, R176, R177), and its statement. -/

namespace Sys2Proof.Machine

/-- R176: what stands in SLEEP after the cut. -/
theorem forcedSleep_eq (s : State) : forcedSleep s = enterSleep (dropGate (cutLoad (stilled s))) := rfl

/-- R84, R176, R177: what a forced entry leaves of the part. -/
structure PutToSleep (s t : State) : Prop where
  power : t.power.state = .sleep ∧
    t.power.lost = s.seq.queue.length + (if s.seq.active.isSome then 1 else 0) ∧
    t.power.lostActive = s.seq.active.isSome
  framer : t.framer.gate = false ∧ t.framer.writer = .idle
  seq : t.seq = { s.seq with staging := [], queue := [], active := none, haltPending := false }
  still : t.motion.moving = false
  tick : t.motion.tick = s.motion.tick
  refValid : t.motion.refValid = (s.motion.refValid && !s.motion.moving)
  position : t.place.position = if s.motion.moving then none else s.place.position
  map : t.place.map = s.place.map
  reports : t.reports = s.reports
  banks : s.framer.capture = none → t.banks = s.banks
  setup : t.setup = s.setup
  health : t.health = s.health
  host : t.host = s.host
  link : t.link = s.link

theorem forcedSleep_asleep (s : State) : PutToSleep s (forcedSleep s) := by
  have held : Halted s (stilled s) := stilled_halted s
  have same := (forcedSleep_inner s).same
  have place : (cutLoad (stilled s)).place = { s.place with
      cart := if s.place.cart = .loading then .inserted else s.place.cart
      position := if s.motion.moving then none else s.place.position } := by
    rw [cutLoad_place, held.place]
  rw [forcedSleep_eq] at same ⊢
  rw [cutLoad_eq, place] at same ⊢
  have seq := stilled_seq s
  refine ⟨⟨rfl, ?_, ?_⟩, ⟨rfl, rfl⟩, ?_, cancelRequest_moving held.still, held.tick, held.refValid, rfl, rfl,
    held.reports, fun idle => (stilled_capture idle).2, same.setup, held.health, same.host, same.link⟩
  · show (stilled s).seq.queue.length + _ = _
    rw [← seq]; rfl
  · show (stilled s).seq.active.isSome = _
    rw [seq]
  · show { (stilled s).seq with staging := [], queue := [], active := none, haltPending := false } = _
    rw [seq]

theorem exec_forcedEntry {s : State} (hr : s.inputs.rstLow = false) (hp : s.power.state ≠ .sleep) :
    exec .forcedEntry s = .next (forcedSleep (setSlp false s)) := by
  have low : followSlp (setSlp false s) = forcedSleep (setSlp false s) := by
    have source : pinSource (setSlp false s) = true := rfl
    rw [followSlp, if_neg (by simp [setSlp, hr]), if_pos source]
    exact if_neg hp
  exact congrArg Host.Outcome.next low

theorem exec_sleepDeadline {s : State} (hp : s.power.state = .sleepPending) :
    exec .sleepDeadline s = .next (forcedSleep s) := if_pos hp

/-- Settles O56: both entries are the one forced entry, and the level of SLP/ is in no register. -/
theorem forcedEntry : Obligations.ForcedEntry := by
  unfold Obligations.ForcedEntry
  intro i s enters
  have entered : ∃ t, exec i s = .next t ∧ PutToSleep s t := by
    rcases enters with ⟨rfl, awake, up⟩ | ⟨rfl, pending⟩
    · have h := forcedSleep_asleep (setSlp false s)
      exact ⟨_, exec_forcedEntry awake up, ⟨h.power, h.framer, h.seq, h.still, h.tick, h.refValid, h.position, h.map,
        h.reports, h.banks, h.setup, h.health, h.host, h.link⟩⟩
    · exact ⟨_, exec_sleepDeadline pending, forcedSleep_asleep s⟩
  obtain ⟨t, runs, h⟩ := entered
  obtain ⟨asleep, lost, lostActive⟩ := h.power
  exact ⟨t, runs, asleep, h.framer.1, h.framer.2, lost, lostActive, h.seq, h.still, h.tick, h.refValid,
    fun moving => h.position.trans (if_pos moving), fun rest => h.position.trans (if_neg (by simp [rest])),
    h.map, h.reports, h.banks, h.setup, h.health, h.host, h.link⟩

end Sys2Proof.Machine
end

section
/-! SUPPORT. A TACH pulse and a stall (R91, R146, R147, R150, R151): what an unmasked stall makes of the part as its order
ends, and the statement about them. -/

namespace Sys2Proof.Machine

/-! ### The STALL bit (R146 to R149) -/

theorem exec_stall {s : State} (hm : s.motion.moving = true) :
    exec .stall s = .next (settle (stallFault (clearStall s))) := if_pos hm

/-- R91, R147: a moving transport with STALL latched. -/
def stallLatched (s : State) : State :=
  { clearStall s with health := { s.health with
      present := s.health.present ||| stallBit, recorded := s.health.recorded ||| stallBit } }

theorem latchStall_moving {s : State} (hm : s.motion.moving = true) : latchStall (clearStall s) = stallLatched s := by
  have moves : (clearStall s).motion.moving = true := hm
  simp only [latchStall, if_pos moves]
  rfl

theorem stallLatched_same (s : State) : Same s (stallLatched s) := ⟨rfl, rfl, rfl, rfl, rfl, rfl, rfl, rfl⟩

/-- R91, R150: an unmasked stall while an order is active: no report but the order's own. -/
theorem stallFault_active {s : State} {a : Active} (hm : s.motion.moving = true) (ha : s.seq.active = some a)
    (hu : s.health.mask &&& stallBit = 0#6) : stallFault (clearStall s) = applyInhibits (stallLatched s) := by
  have detected : ¬ stallMasked (clearStall s) = true := by simp [stallMasked, clearStall, hu]
  have serving : ((clearStall s).seq.active.isSome || (clearStall s).inputs.rstLow) = true := by
    simp [clearStall, ha]
  rw [stallFault, if_neg detected]
  simp only [if_pos serving, latchStall_moving hm]

theorem or_stallBit (p : BitVec 6) : (p ||| stallBit) &&& stallBit = stallBit := by
  revert p
  decide

theorem motionFault_of_stall {h : Health} (stall : h.present &&& stallBit = stallBit) : h.motionFault = true := by
  have motion (p : BitVec 6) : p &&& stallBit = stallBit → (p &&& motionFaults != 0#6) = true := by
    revert p
    decide
  exact motion _ stall

/-- R147, R148: a judgement keeps a STALL that is latched and not masked. -/
theorem presentFor_stall {h : Health} (stall : h.present &&& stallBit = stallBit) (unmasked : h.mask &&& stallBit = 0#6)
    (c : BitVec 6) : presentFor h c &&& stallBit = stallBit := by
  have present : h.present[3] = true := by
    simpa [stallBit] using congrArg (fun p : BitVec 6 => p[3]) stall
  have clear : h.mask[3] = false := by
    simpa [stallBit] using congrArg (fun p : BitVec 6 => p[3]) unmasked
  have kept : (presentFor h c)[3] = true := by
    simp [presentFor, present, clear, latchedFaults]
  have only (p : BitVec 6) : p[3] = true → p &&& stallBit = stallBit := by
    revert p
    decide
  exact only _ kept

/-! ### The inhibit of a moving transport (R84, R150, R151) -/

/-- R84, R151: a moving transport is held and INHIBITED; a capture is cut short and STANDBY ends. -/
structure Inhibited (s u : State) : Prop where
  seq : u.seq = s.seq
  health : u.health = s.health
  awake : s.power.state ≠ .sleepPending → u.power.state ≠ .sleepPending
  motion : u.motion.state = .inhibited ∧ u.motion.rate = 0 ∧ u.motion.refValid = false ∧ u.motion.settling = false ∧
    u.motion.tick = s.motion.tick
  place : u.place = { s.place with position := none }
  gate : u.framer.gate = false
  capture : u.framer.capture = none
  banks : s.framer.capture = none → u.banks = s.banks
  events : ∃ o, u.events = [.stoppedAt s.motion.tick o true]

theorem inhibitController_moving {s : State} (hm : s.motion.moving = true) (hf : s.health.motionFault = true) :
    inhibitController s = { hold true s with power := { (hold true s).power with
      state := if (hold true s).power.state = .standby then .active else (hold true s).power.state
      standbyTimer := 0 } } := by
  rw [inhibitController, if_pos hf, if_neg (moving_runs hm)]

theorem cutCapture_banks {s : State} (h : s.framer.capture = none) : (cutCapture s).banks = s.banks := by
  rw [cutCapture_idle h]

theorem inhibitController_inhibited {s : State} (hm : s.motion.moving = true) (hf : s.health.motionFault = true)
    (he : s.events = []) : Inhibited s (inhibitController s) := by
  obtain ⟨o, held, state, rate, ref, settling, tick⟩ := hold_form true hm he
  have same := cut_same (dropGate { s with
    motion := (holdMotion true s.motion).motion, events := [.stoppedAt s.motion.tick o true]
    place := { s.place with position := none } })
  have framer := cut_framer (dropGate { s with
    motion := (holdMotion true s.motion).motion, events := [.stoppedAt s.motion.tick o true]
    place := { s.place with position := none } })
  have free (h : s.framer.capture = none) : (hold true s).banks = s.banks :=
    (congrArg State.banks held).trans (cutCapture_banks h)
  have power : (hold true s).power = s.power := by rw [held]; exact same.power
  have motion : (hold true s).motion = (holdMotion true s.motion).motion := hold_motion true s
  rw [inhibitController_moving hm hf]
  simp only [power]
  rw [← held] at same framer
  refine ⟨same.seq, same.health, fun awake => ?_, by simp only [motion]; exact ⟨state, rate, ref, settling, tick⟩,
    same.place, framer.1, framer.2.2, free, o, same.events⟩
  split
  · exact nofun
  · exact awake

/-! ### The part as the order that a motion fault cuts short ends -/

/-- R52, R150: the part as the order of an inhibited transport ends with FAULT. -/
def struck (a : Active) (s : State) : State :=
  { dropGate (inhibitController s) with seq := { s.seq with active := some (a.cut .fault) }, events := [] }

theorem struck_same (a : Active) (s : State) : Same s (struck a s) :=
  (inhibitController_same s).trans ⟨rfl, rfl, rfl, rfl, rfl, rfl, rfl, rfl⟩

/-- R150, R151: a motion fault of a moving transport: its rest is the hold's, and its order ends. -/
theorem applyInhibits_moving {s : State} {a : Active} (hm : s.motion.moving = true) (hf : s.health.motionFault = true)
    (ha : s.seq.active = some a) (he : s.events = []) :
    ∃ o, applyInhibits s = { struck a s with events := [.stoppedAt s.motion.tick o true, .orderEnds] } := by
  have held := inhibitController_inhibited hm hf he
  obtain ⟨o, rests⟩ := held.events
  have active : (inhibitController s).seq.active = some a := by rw [held.seq]; exact ha
  have cut : cutShort .fault (inhibitController s) =
      { struck a s with events := [.stoppedAt s.motion.tick o true, .orderEnds] } := by
    rw [cutShort_eq .fault active, cutCapture_idle (s := dropGate (inhibitController s)) held.capture, rests, held.seq]
    rfl
  have onset : (s.health.motionFault && s.motion.state != .inhibited) = true := by
    rw [hf, Bool.true_and, bne_iff_ne]
    exact moving_runs hm
  have serving : s.seq.active.isSome = true := by rw [ha]; rfl
  have gate : (cutShort .fault (inhibitController s)).framer.gate = false := by rw [cut]; rfl
  refine ⟨o, ?_⟩
  rw [← cut]
  simp only [applyInhibits, if_pos onset, if_pos serving]
  exact if_neg (by simp [gate])

/-- R53, R92: the rest of a hold is handed before the ending that it brings, and nothing follows it. -/
theorem settle_heldEnding {s : State} {t : TickWord} {o : Nat} (h : s.events = [.stoppedAt t o true, .orderEnds]) :
    settle s = settleFor 62 (finish { s with events := [] }) :=
  (settleFor_event h 63).trans (settleFor_event (s := { s with events := [.orderEnds] }) rfl 62)

/-- R33, R97, R150, R151: an order of an inhibited transport that ends with FAULT under a latched STALL: the judgement
keeps the inhibit. -/
theorem finish_stalled {s : State} {a : Active} (ha : s.seq.active = some a) (hc : (endCause a).cause ≠ .success)
    (hi : s.motion.state = .inhibited) (hs : s.motion.settling = false) (hb : s.health.present &&& stallBit = stallBit)
    (hm : s.health.mask &&& stallBit = 0#6) : finish s = faultBits { s with
      seq := { s.seq with queue := [], active := none, haltPending := false }
      reports := s.reports.push (failedReport s a)
      banks := { s.banks with a := s.banks.a.afterDiscard, b := s.banks.b.afterDiscard }
      place := { s.place with
        cart := if s.place.cart = .loading then .inserted else s.place.cart
        position := (takeFinal a s).place.position } } := by
  have rest : endRequest s = s := endRequest_rest (by simp [Motion.waitingAtRest, hi, hs])
  have form := preFin_failed (s := s) hc
  rw [rest] at form
  have fault : (faultBits (preFin s a)).health.motionFault = true := by
    refine motionFault_of_stall ?_
    rw [form]
    exact presentFor_stall hb hm _
  rw [finish_eq ha, inhibitController, if_pos fault, form]
  exact if_pos hi

theorem Active.cut_fresh {a : Active} (h : a.cause = none) (c : Cause) :
    (a.cut c).cause = some { cause := c, stage := a.stage } := by
  rw [Active.cut, h]
  rfl

/-- Settles O38: an unmasked stall latches, the inhibit holds the transport, and the order ends at that rest. -/
theorem tachAndStall : Obligations.TachAndStall := by
  unfold Obligations.TachAndStall
  intro s
  refine ⟨rfl, fun h => if_neg (by simp [h]), fun moves masked steady => ?_, fun a _ under unmasked => ?_⟩
  · have none : stallFault (clearStall s) = clearStall s := if_pos (bne_iff_ne.2 masked)
    rw [exec_stall moves, none]
    exact congrArg _ (settle_steady steady)
  · let v : State := stallLatched s
    let b : Active := a.cut .fault
    let w : State := struck a v
    have moves : v.motion.moving = true := under.moving
    have stall : v.health.present &&& stallBit = stallBit := or_stallBit _
    have motionFault : v.health.motionFault = true := motionFault_of_stall stall
    have held : Inhibited v (inhibitController v) := inhibitController_inhibited moves motionFault under.events
    obtain ⟨inhibited, rate, ref, settling, tick⟩ := held.motion
    obtain ⟨o, applied⟩ := applyInhibits_moving moves motionFault under.active under.events
    have cause : (endCause b).cause = .fault := by
      rw [endCause, Active.cut_fresh under.cause]
      rfl
    have failed : (endCause b).cause ≠ .success := by rw [cause]; exact nofun
    have health : w.health = v.health := held.health
    have stalled : w.health.present &&& stallBit = stallBit := by rw [health]; exact stall
    have detected : w.health.mask &&& stallBit = 0#6 := by rw [health]; exact unmasked
    have ends := finish_stalled (s := w) rfl failed inhibited settling stalled detected
    have awake : w.power.state ≠ .sleepPending := held.awake under.awake
    have unknown : (takeFinal b w).place.position = none :=
      (takeFinal_position b w).trans (takenPosition_lost ref (congrArg Place.position held.place) _)
    have same : Same s (finish w) := (stallLatched_same s).trans ((struck_same a v).trans (finish_inner w).same)
    have recorded : (finish w).health.recorded &&& stallBit = stallBit := by
      have latched : w.health.recorded = s.health.recorded ||| stallBit := by rw [health]; rfl
      rw [ends, faultBits, latched, BitVec.or_assoc, BitVec.or_comm stallBit, ← BitVec.or_assoc]
      exact or_stallBit _
    have present : (finish w).health.present &&& stallBit = stallBit := by
      rw [ends]
      exact presentFor_stall stalled detected _
    have steady : Steady (finish w) := by
      rw [ends]
      exact ⟨rfl, awake, rfl⟩
    have settles : settle (stallFault (clearStall s)) = finish w := by
      have settled : settle (applyInhibits v) = settleFor 62 (finish w) := by
        rw [applied]
        exact settle_heldEnding rfl
      rw [stallFault_active under.moving under.active unmasked, settled, settleFor_steady steady]
    refine ⟨finish w, by rw [exec_stall under.moving, settles], ?_⟩
    rw [ends] at same recorded present ⊢
    exact ⟨inhibited, rate, ref, unknown, rfl, present, recorded, rfl, (push_last _ _).1.trans cause, (push_last _ _).2,
      tick, same.host, same.setup, same.link, same.mask, same.control, (congrArg Place.map held.place :),
      fun idle => by simp only [struck, dropGate, w, held.banks idle]; rfl⟩

end Sys2Proof.Machine
end

section
/-! SUPPORT. No command and no millisecond leaves a motion event behind or touches the queue (R92; log 6): the operations
of the commands, what falls at one instant, and the statement about them. -/

namespace Sys2Proof.Machine

/-! ### What leaves no event -/

/-- R92, log 6: what is done to a sound part hands no event for later; the queue of commands stays. -/
structure Concludes (s t : State) : Prop where
  pending : t.pending = s.pending
  sound : Sound s → Sound t
  handed : Sound s → s.events = [] → t.events = []

theorem Concludes.refl (s : State) : Concludes s s := ⟨rfl, id, fun _ => id⟩

/-- Acts in a row, the last first. -/
theorem Concludes.after {s t u : State} (k : Concludes t u) (h : Concludes s t) : Concludes s u :=
  ⟨k.pending.trans h.pending, fun hs => k.sound (h.sound hs), fun hs he => k.handed (h.sound hs) (h.handed hs he)⟩

theorem Act.concludes {s t : State} (h : Act s t) (he : s.events = [] → t.events = []) : Concludes s t :=
  ⟨h.same.pending, h.sound, fun _ => he⟩

theorem Inner.concludes {s t : State} (h : Inner s t) (he : s.events = [] → t.events = []) : Concludes s t :=
  h.act.concludes he

/-- Log 6: nothing is left once all consequences are drawn. -/
theorem Act.settled {s t : State} (h : Act s t) : Concludes s (settle t) :=
  ((settle_inner t).act.after h).concludes fun _ => settle_events t

theorem Inner.settled {s t : State} (h : Inner s t) : Concludes s (settle t) := h.act.settled

theorem Concludes.settled {s t : State} (h : Concludes s t) : Concludes s (settle t) := (Inner.refl t).settled.after h

theorem concludes_host (s : State) (x : HostPort) : Concludes s { s with host := x } :=
  ⟨rfl, fun h => h.setHost x, fun _ => id⟩

theorem concludes_link (s : State) (x : Link) : Concludes s { s with link := x } :=
  ⟨rfl, fun h => h.setLink x, fun _ => id⟩

theorem concludes_inputs (s : State) (x : Inputs) : Concludes s { s with inputs := x } :=
  (setInputs_act s x).concludes id

/-! ### Faults and sleep (R152, R172 to R177) -/

theorem clearAction_concludes (s : State) : Concludes s (clearAction s) where
  pending := (clearAction_inner s).same.pending
  sound := (clearAction_inner s).sound
  handed hs he := by
    obtain ⟨p, -, form⟩ := clear_form hs
    rw [form]
    exact he

theorem forcedSleep_concludes (s : State) : Concludes s (forcedSleep s) := (forcedSleep_inner s).concludes fun _ => rfl

theorem judgeSources_concludes (s : State) : Concludes s (judgeSources s) := by
  refine (judgeSources_inner s).concludes fun he => ?_
  unfold judgeSources
  split
  · rfl
  · split
    · rfl
    · exact he

theorem linkSourceSet_concludes (s : State) : Concludes s (linkSourceSet s) := by
  unfold linkSourceSet
  split
  · exact .refl s
  · split
    · exact (enterPending_inner s).settled
    · exact (enterPending_inner s).settled
    · exact .refl s

theorem linkSourceClear_concludes (s : State) : Concludes s (linkSourceClear s) := by
  unfold linkSourceClear
  split
  · exact (leavePending_inner s).settled
  · exact .refl s

theorem retime_events (item : Item) {s : State} (he : s.events = []) : (retime item s).events = [] := by
  unfold retime
  split
  · split
    · exact he
    · split <;> exact he
  · split
    · rfl
    · exact he
  · exact he

/-! ### The wake and the resets (R178 to R181) -/

theorem wakeUp_concludes (s : State) : Concludes s (wakeUp s) where
  pending := (clearAction_inner (faultBits (wakeStart s))).same.pending
  sound := wakeUp_sound
  handed _ _ := (wakeChanges_woken s).fresh.events

theorem followSlp_concludes (s : State) : Concludes s (followSlp s) := by
  unfold followSlp
  split
  · exact .refl s
  · split
    · split
      · exact .refl s
      · exact forcedSleep_concludes s
    · split
      · exact wakeUp_concludes s
      · exact .refl s

theorem wakeByLink_concludes (s : State) : Concludes s (wakeByLink s) := by
  unfold wakeByLink
  split
  · exact .refl s
  · exact wakeUp_concludes s

theorem resetStart_pending (s : State) : (resetStart s).pending = s.pending :=
  ((cutLoad_inner _).after (resetHold_inner s)).same.pending

theorem deviceResetActs_pending (s : State) : (deviceResetActs s).pending = s.pending := by
  have reset (u : State) : (resetCartridge (loadCartridgeLevels u)).pending = u.pending :=
    (resetCartridge_inner (loadCartridgeLevels u)).same.pending
  have started := (reset (resetStart s)).trans (resetStart_pending s)
  rw [deviceResetActs_eq]
  dsimp only
  split
  · exact (inhibitController_inner _).same.pending.trans started
  · exact (clearAction_inner _).same.pending.trans started

/-- R41, R181: no event of before a DEVICE RESET is left after it. -/
theorem deviceResetActs_events (s : State) : (deviceResetActs s).events = [] := by
  obtain ⟨-, r, -, -, fresh, imposed⟩ := deviceResetActs_spec s
  obtain ⟨-, -, -, -, -, -, events, -⟩ := imposed.same
  exact events.trans fresh.events

theorem deviceReset_concludes (s : State) : Concludes s (deviceReset s) :=
  (judgeSources_concludes _).after (((resetReport_inner _ _).concludes id).after
    ⟨deviceResetActs_pending s, deviceResetActs_sound, fun _ _ => deviceResetActs_events s⟩)

theorem powerOnReset_concludes (pins : Pins) (s : State) : Concludes s (powerOnReset pins s) where
  pending := by
    have found : (resetReport .powerOn (inhibitController (faultBits (porState pins s)))).pending = s.pending :=
      (inhibitController_inner (faultBits (porState pins s))).same.pending
    unfold powerOnReset
    dsimp only
    split
    · exact (forcedSleep_inner _).same.pending.trans found
    · exact found
  sound _ := powerOnReset_sound pins s
  handed _ _ := by
    obtain ⟨t, eq, fresh, -⟩ := powerOnReset_leaves pins s
    rw [eq]
    exact fresh.events

theorem assertRst_concludes (s : State) : Concludes s (assertRst s) :=
  ⟨resetStart_pending s, assertRst_sound, fun _ _ => (assertRst_fresh s).events⟩

theorem endRelease_concludes (u : State) : Concludes u (endRelease u) :=
  (judgeSources_concludes _).after
    (((resetReport_inner _ _).concludes id).after ((Inner.refl u).setPower.concludes id))

theorem releaseRst_pending (s : State) : (releaseRst s).pending = s.pending := by
  have high : Concludes s { s with inputs := { s.inputs with rstLow := false } } := concludes_inputs s _
  rw [releaseRst_eq]
  refine (endRelease_concludes _).pending.trans ?_
  split
  · exact (clearAction_inner (faultBits (wakeStart _))).same.pending
  · refine (clearAction_inner _).same.pending.trans ?_
    exact (resetCartridge_inner _).same.pending

/-- R180: the release of RST/, in a part that it has held in reset. -/
theorem releaseRst_events {s : State} (hs : Sound s) (hr : s.inputs.rstLow = true) (hh : HeldInReset s) :
    (releaseRst s).events = [] := by
  let h : State := { s with inputs := { s.inputs with rstLow := false } }
  have high : Sound h := (setInputs_act s _).sound hs
  have held : HeldInReset { h with inputs := { h.inputs with rstLow := true } } := fun _ => hh hr
  rw [releaseRst_eq]
  refine (endRelease_concludes _).handed ?_ ?_
  · split
    · exact ((Inner.refl _).setPower).sound (wakeChanges_sound high)
    · exact clearAction_sound (faultBits_core
        ((resetCartridge_inner _).sound ((loadCartridgeLevels_act _).sound high)).core)
  · split
    · exact (releaseFromSleep_released (s := h) rfl).rest.2.1
    · exact (releaseAwake_released (s := h) high.anchored held rfl).rest.2.1

/-! ### The host's accesses (R4 to R22, R38 to R40, R47, R48) -/

theorem csRead_concludes {act : State → State} {s : State} (h : Concludes s (act s)) : Concludes s (csRead act s) := by
  unfold csRead
  split
  · exact h
  · exact concludes_host s _

theorem csWrite_concludes {act : State → State} {s : State} (h : Concludes s (act s)) : Concludes s (csWrite act s) := by
  unfold csWrite
  split
  · exact h
  · exact .refl s

theorem dataAccess_concludes {act cs : State → State} {s : State} (hc : Concludes s (cs s)) (ha : Concludes s (act s))
    (via : BusPath) : Concludes s (dataAccess via cs act s) := by
  cases via with
  | cs => exact hc
  | dack =>
    show Concludes s (if _ then act s else s)
    split
    · exact ha
    · exact .refl s

theorem takeData_concludes (id : BankId) (s : State) : Concludes s (takeData id s) :=
  (concludes_host _ _).after ((Inner.refl s).setBanks.concludes fun he => he)

theorem dataPortRead_concludes (s : State) : Concludes s (dataPortRead s) := by
  unfold dataPortRead
  split
  · exact (concludes_host _ _).after (concludes_host s _)
  · exact (takeData_concludes _ s).settled

theorem dataPortWrite_concludes (v : Byte) (s : State) : Concludes s (dataPortWrite v s) := by
  unfold dataPortWrite
  split
  · exact concludes_host s _
  · split
    · exact concludes_host s _
    · exact (Inner.refl s).setBanks.settled

theorem readReport_concludes (s : State) : Concludes s (readReport s) := ⟨rfl, readReport_sound, fun _ => id⟩

theorem rewindReport_concludes (s : State) : Concludes s (rewindReport s) := ⟨rfl, rewindReport_sound, fun _ => id⟩

theorem ackReport_concludes (s : State) : Concludes s (ackReport s) :=
  ((Inner.refl s).setReports acknowledge_fits).settled

theorem reportControl_concludes (v : Byte) (s : State) : Concludes s (reportControl v s) := by
  unfold reportControl
  split
  · exact ackReport_concludes s
  · split
    · exact rewindReport_concludes s
    · exact .refl s

theorem stageParam_concludes (v : Byte) (s : State) : Concludes s (stageParam v s) := by
  refine ⟨?_, stageParam_sound v, fun _ he => ?_⟩ <;> unfold stageParam
  · split <;> rfl
  · split <;> exact he

theorem setupRead_concludes (s : State) : Concludes s (setupRead s) := by
  have item (r : ItemRow) (k : Nat) : (readItem r k s).pending = s.pending ∧ (readItem r k s).events = s.events := by
    unfold readItem
    dsimp only
    split
    · split <;> exact ⟨rfl, rfl⟩
    · exact ⟨rfl, rfl⟩
  refine ⟨?_, setupRead_sound, fun _ he => ?_⟩ <;> unfold setupRead
  · split
    · rfl
    · exact (item _ _).1
  · split
    · exact he
    · exact (item _ _).2.trans he

theorem windowRead_concludes (addr : BitVec 3) (s : State) : Concludes s (windowRead addr s) := by
  unfold windowRead
  split
  · exact dataPortRead_concludes s
  · exact concludes_host s _
  · exact concludes_host s _
  · exact readReport_concludes s
  · exact concludes_host s _
  · exact concludes_host s _
  · exact concludes_host s _
  · exact setupRead_concludes s

theorem offerOrder_concludes (code : Byte) (s : State) : Concludes s (offerOrder code s) := by
  refine ⟨?_, offerOrder_sound code, fun _ he => ?_⟩ <;> unfold offerOrder
  · split
    · exact (settle_inner _).same.pending
    · rfl
  · split
    · exact settle_events _
    · exact he

theorem idleStop_concludes (c : Cause) (code : Byte) (s : State) : Concludes s (idleStop c code s) :=
  (idleStop_inner c code s).concludes fun he => he

theorem haltOrder_concludes (s : State) : Concludes s (haltOrder s) := by
  unfold haltOrder
  split
  · exact idleStop_concludes _ _ s
  · unfold haltActive
    split
    · exact .refl s
    · exact ((interrupt_inner _).after
        ((Inner.refl s).setSeq (q := { s.seq with haltPending := true }) fun k => ⟨k.1, k.2⟩)).settled

theorem emergencyStop_concludes (s : State) : Concludes s (emergencyStop s) := by
  unfold emergencyStop
  split
  · exact idleStop_concludes _ _ s
  · exact (stopActs_inner s).settled

theorem orderByte_concludes (code : Byte) (s : State) : Concludes s (orderByte code s) := by
  unfold orderByte
  split
  · exact haltOrder_concludes s
  · split
    · exact emergencyStop_concludes s
    · split
      · exact deviceReset_concludes s
      · exact offerOrder_concludes code s

/-- R16: what a commit hands; that it leaves a sound part takes a value in its item's range. -/
theorem commitValue_hands (r : ItemRow) (v : Nat) (s : State) : (commitValue r v s).pending = s.pending ∧
    (Sound s → s.events = [] → (commitValue r v s).events = []) := by
  unfold commitValue
  split
  · unfold commitItem
    split
    · exact ⟨(retime_inner r.item _).same.pending, fun _ he => retime_events r.item he⟩
    · exact ⟨rfl, fun _ => id⟩
  · unfold commitFaultClear
    split
    · exact ⟨(clearAction_concludes s).pending, (clearAction_concludes s).handed⟩
    · exact ⟨rfl, fun _ => id⟩
  · unfold commitEntry
    split <;> exact ⟨rfl, fun _ => id⟩
  · exact ⟨rfl, fun _ => id⟩

theorem writeItem_hands (r : ItemRow) (v : Byte) (s : State) : (writeItem r v s).pending = s.pending ∧
    (Sound s → s.events = [] → (writeItem r v s).events = []) := by
  unfold writeItem
  split
  · exact ⟨rfl, fun _ => id⟩
  · split
    · exact ⟨rfl, fun _ => id⟩
    · obtain ⟨pending, handed⟩ := commitValue_hands r (assembled s r v) (clearShadow r s)
      exact ⟨pending, fun hs => handed (hs.setHost _)⟩

theorem setupWrite_concludes (v : Byte) (s : State) : Concludes s (setupWrite v s) := by
  refine ⟨?_, setupWrite_sound v, fun hs he => ?_⟩ <;> unfold setupWrite
  · split
    · rfl
    · exact (writeItem_hands _ v s).1
  · split
    · exact he
    · exact (writeItem_hands _ v s).2 hs he

theorem windowWrite_concludes (addr : BitVec 3) (v : Byte) (s : State) : Concludes s (windowWrite addr v s) := by
  unfold windowWrite
  split
  · exact dataPortWrite_concludes v s
  · exact orderByte_concludes v s
  · exact stageParam_concludes v s
  · exact reportControl_concludes v s
  · exact concludes_host s _
  · exact concludes_host s _
  · exact concludes_host s _
  · exact setupWrite_concludes v s

theorem hostAccess_concludes (access : HostAccess) (s : State) : Concludes s (hostAccess access s) := by
  cases access with
  | read addr => exact csRead_concludes (windowRead_concludes addr s)
  | write addr v => exact csWrite_concludes (windowWrite_concludes addr v s)

/-! ### The commit of a frame (R148, R155, R156, R163, R164, R166, R169) -/

theorem commitMask_concludes (v : BitVec 16) (s : State) : Concludes s (commitMask v s) :=
  ⟨(settle_inner _).same.pending.trans (judge_inner _).same.pending, commitMask_sound v, fun _ _ => settle_events _⟩

theorem lockoutSet_concludes (s : State) : Concludes s (lockoutSet s) := by
  unfold lockoutSet
  split
  · unfold lockReaches
    split
    · exact .refl s
    · exact ((interrupt_inner _).after (onActive_inner _ s)).settled
  · split
    · exact .refl s
    · exact (pushUnsolicited_inner _ s).concludes id

theorem lockoutCleared_concludes (s : State) : Concludes s (lockoutCleared s) := by
  unfold lockoutCleared
  split
  · exact .refl s
  · exact (pushUnsolicited_inner _ s).concludes id

theorem commitControl_concludes (v : BitVec 16) (s : State) : Concludes s (commitControl v s) := by
  have stored : Concludes s { s with health := { s.health with control := v.extractLsb' 0 4 } } :=
    ⟨rfl, fun h => ⟨h.1, h.2, h.3, h.4, h.5, h.6, h.7, h.8, h.9⟩, fun _ => id⟩
  unfold commitControl
  dsimp only
  split
  · exact (lockoutSet_concludes _).after stored
  · split
    · exact (lockoutCleared_concludes _).after stored
    · exact stored

theorem commitSleepRequest_concludes (v : BitVec 16) (s : State) : Concludes s (commitSleepRequest v s) := by
  unfold commitSleepRequest
  dsimp only
  split
  · exact (linkSourceSet_concludes _).after (concludes_link s _)
  · split
    · exact (linkSourceClear_concludes _).after (concludes_link s _)
    · exact concludes_link s _

theorem commitFrame_concludes (op : LinkOp) (item : BitVec 5) (v : BitVec 16) (s : State) :
    Concludes s (commitFrame op item v s) := by
  unfold commitFrame
  split
  · unfold commitPoke
    split
    · exact commitMask_concludes v s
    · exact commitControl_concludes v s
    · exact commitSleepRequest_concludes v s
    · exact .refl s
  · unfold commitClear
    split
    · exact ⟨rfl, fun h => ⟨h.1, h.2, h.3, h.4, h.5, h.6, h.7, h.8, h.9⟩, fun _ => id⟩
    · exact clearAction_concludes s
    · exact .refl s
  · exact .refl s

theorem commitAsleep_concludes (op : LinkOp) (item : BitVec 5) (v : BitVec 16) (s : State) :
    Concludes s (commitAsleep op item v s) := by
  unfold commitAsleep
  split
  · exact (wakeByLink_concludes _).after (concludes_link s _)
  · exact .refl s

theorem installPair_concludes (s : State) : Concludes s (installPair s) := by
  unfold installPair
  split
  · exact .refl s
  · exact (concludes_link _ _).after (concludes_link s _)
  · exact (concludes_link _ _).after (concludes_link s _)

theorem judgeFrame_concludes (s : State) : Concludes s (judgeFrame s) := by
  unfold judgeFrame
  dsimp only
  split
  · exact concludes_link s _
  · split
    · exact (commitAsleep_concludes _ _ _ _).after ((concludes_link _ _).after (concludes_link s _))
    · exact (commitFrame_concludes _ _ _ _).after ((installPair_concludes _).after (concludes_link s _))

theorem commitAt_concludes (deselect : Bool) (s : State) : Concludes s (commitAt deselect s) := by
  unfold commitAt
  split
  · exact judgeFrame_concludes s
  · exact .refl s

end Sys2Proof.Machine
end

section
/-! SUPPORT. One instant, at which an event, a host access and a commit may fall (R53, R168), the frames of the link, every
command and the millisecond: none leaves a motion event (R92; log 6). -/

namespace Sys2Proof.Machine

/-! ### The queue of commands at an event (R53) -/

theorem lockArises_pending (b : Beside) (deselect : Bool) (s : State) : (lockArises b deselect s).pending = s.pending :=
  (lockArises_inner b deselect s).same.pending

section

variable {act : State → State} (ha : ∀ u, (act u).pending = u.pending)

include ha

theorem beforeRest_pending (s : State) : (beforeRest act s).pending = s.pending := ha { s with events := [] }

theorem settleAroundFor_pending (n : Nat) (s : State) : (settleAroundFor act n s).pending = s.pending := by
  induction n generalizing s with
  | zero => exact ha s
  | succ n ih =>
    unfold settleAroundFor
    split
    · exact (settleFor_inner _ _).same.pending.trans (ha s)
    · split
      · exact (settleFor_inner _ _).same.pending.trans (beforeRest_pending ha s)
      · exact (ih _).trans (onEvent_inner _ _).same.pending

theorem cartinAround_pending (v : Bool) (s : State) : (cartinAround act v s).pending = s.pending := by
  unfold cartinAround
  rw [beforeRest_pending ha]
  split
  · exact (insertCartridge_inner act s).same.pending
  · exact (removeCartridge_inner act s).same.pending

theorem inputAround_pending (how : Change) (line : LevelInput) (v : Bool) (s : State) :
    (inputAround act how line v s).pending = s.pending := by
  cases line with
  | health input =>
    show (healthChange act how input v s).pending = _
    unfold healthChange
    split
    · exact (settle_inner _).same.pending.trans ((beforeRest_pending ha _).trans (judge_inner _).same.pending)
    · exact ha _
  | wprot => exact (ha _).trans (wprotChange_act how v s).same.pending
  | cartin bots eots =>
    show (cartinChange act how v _).pending = _
    unfold cartinChange
    split
    · exact (settle_inner _).same.pending.trans (cartinAround_pending ha v _)
    · exact ha _

theorem eventAround_pending (b : Beside) (s : State) : (eventAround b act s).pending = s.pending := by
  cases b with
  | nothing => exact ha s
  | input line how high => exact inputAround_pending ha how line high s
  | step bots eots header =>
    show (stepAround act bots eots header s).pending = _
    unfold stepAround
    split
    · exact settleAroundFor_pending ha _ _
    · exact ha s

theorem eventCommits_pending (b : Beside) (deselect waits : Bool) (s : State) :
    (eventCommits b deselect waits act s).pending = s.pending := by
  have around := (eventAround_pending (act := fun u => commitAt deselect (act u))
    (fun u => (commitAt_concludes deselect _).pending.trans (ha u)) b _).trans (lockArises_pending b deselect s)
  unfold eventCommits
  dsimp only
  split
  · exact ((settle_inner _).after (interrupt_inner _)).same.pending.trans around
  · exact around

end

/-! ### The event (R53) -/

theorem settleAroundFor_events (act : State → State) (n : Nat) (s : State) : (settleAroundFor act n s).events = [] := by
  induction n generalizing s with
  | zero => rfl
  | succ n ih =>
    unfold settleAroundFor
    split
    · exact settleFor_events _ _
    · split
      · exact settleFor_events _ _
      · exact ih _

section

variable {act : State → State} (ha : ∀ u, Concludes u (act u))

include ha

theorem inputAround_events (how : Change) (line : LevelInput) (v : Bool) {s : State} (hs : Sound s)
    (he : s.events = []) : (inputAround act how line v s).events = [] := by
  have levels (x : Inputs) : (act { s with inputs := x }).events = [] := (ha _).handed ((setInputs_act s x).sound hs) he
  cases line with
  | health input =>
    show (healthChange act how input v s).events = _
    unfold healthChange
    split
    · exact settle_events _
    · exact levels _
  | wprot =>
    show (act (wprotChange how v s)).events = _
    unfold wprotChange
    split <;> exact levels _
  | cartin bots eots =>
    show (cartinChange act how v _).events = _
    unfold cartinChange
    split
    · exact settle_events _
    · exact levels _

/-- Where the part reacts to the event, all that follows is settled; where it does not, `act` stands alone. -/
theorem eventAround_concludes (b : Beside) (s : State) : Concludes s (eventAround b act s) := by
  refine ⟨eventAround_pending (fun u => (ha u).pending) b s, eventAround_sound (fun u => (ha u).sound) b,
    fun hs he => ?_⟩
  cases b with
  | nothing => exact (ha s).handed hs he
  | input line how high => exact inputAround_events ha how line high hs he
  | step bots eots header =>
    show (stepAround act bots eots header s).events = _
    unfold stepAround
    split
    · exact settleAroundFor_events act _ _
    · exact (ha s).handed hs he

theorem eventCommits_concludes (b : Beside) (deselect waits : Bool) (s : State) :
    Concludes s (eventCommits b deselect waits act s) := by
  have lock : Concludes s (lockArises b deselect s) := by
    refine (lockArises_inner b deselect s).concludes fun he => ?_
    unfold lockArises
    split <;> exact he
  have around := (eventAround_concludes (act := fun u => commitAt deselect (act u))
    (fun u => (commitAt_concludes deselect _).after (ha u)) b (lockArises b deselect s)).after lock
  unfold eventCommits
  dsimp only
  split
  · exact (interrupt_inner _).settled.after around
  · exact around

end

/-- R53, R168: the event and the commit of an instant, with nothing else. -/
theorem eventAlone_concludes (b : Beside) (deselect waits : Bool) (s : State) :
    Concludes s (eventCommits b deselect waits id s) := eventCommits_concludes .refl b deselect waits s

/-- R40: an event to which the part does not react hands nothing. -/
theorem bareEvent_events {b : Beside} {s : State} (h : reacts b s = false) : (bareEvent b s).events = s.events := by
  cases b with
  | nothing => rfl
  | step bots eots header =>
    have rest : ¬ s.motion.moving = true := by simpa [reacts] using h
    exact congrArg State.events (if_neg rest)
  | input line how high =>
    cases line with
    | health input =>
      have unseen : ¬ reaches how s = true := by simpa [reacts] using h
      show State.events (if _ then _ else _) = _
      rw [if_neg unseen]
    | wprot =>
      show (wprotChange how high s).events = _
      unfold wprotChange
      split <;> rfl
    | cartin bots eots => rfl

theorem bareEvent_concludes {b : Beside} {s : State} (h : reacts b s = false) : Concludes s (bareEvent b s) :=
  (bareEvent_act b s).concludes fun he => (bareEvent_events h).trans he

theorem not_reacts_of_changesTab {b : Beside} (h : changesTab b = true) (s : State) : reacts b s = false := by
  unfold changesTab at h
  split at h
  · exact Bool.and_false _
  · cases h

/-! ### The host access and the immediate orders (R38 to R40, R168) -/

theorem dataReadBeside_concludes (s : State) : Concludes s (dataReadBeside s) := by
  unfold dataReadBeside
  split
  · exact (concludes_host _ _).after (concludes_host s _)
  · exact takeData_concludes _ s

theorem dataWriteBeside_concludes (v : Byte) (s : State) : Concludes s (dataWriteBeside v s) := by
  unfold dataWriteBeside
  split
  · exact concludes_host s _
  · exact (Inner.refl s).setBanks.concludes id

theorem accessBeside_concludes (access : HostAccess) (s : State) : Concludes s (accessBeside access s) := by
  unfold accessBeside
  split
  · exact csRead_concludes (dataReadBeside_concludes s)
  · exact csWrite_concludes (dataWriteBeside_concludes _ s)
  · exact hostAccess_concludes access s

theorem reflag_concludes (after : State → State) (kept : Nat) (s : State) : Concludes s (reflag after kept s) := by
  refine (reflag_inner after kept s).concludes fun he => ?_
  unfold reflag
  split <;> exact he

theorem accessFirst_concludes (access : HostAccess) (b : Beside) (deselect : Bool) (s : State) :
    Concludes s (accessFirst access b deselect s) := by
  unfold accessFirst
  dsimp only
  split
  · exact (reflag_concludes _ _ _).after (hostAccess_concludes access s)
  · exact hostAccess_concludes access s

theorem accessAtInstant_concludes (access : HostAccess) (b : Beside) (deselect : Bool) (s : State) :
    Concludes s (accessAtInstant access b deselect s) := by
  unfold accessAtInstant
  split
  · exact (eventAlone_concludes b deselect false _).after (accessFirst_concludes access b deselect s)
  · exact eventCommits_concludes (accessBeside_concludes access) b deselect false s
  · exact (hostAccess_concludes access _).after (eventAlone_concludes b deselect false s)

theorem idleStopAtInstant_concludes (c : Cause) (code : Byte) (b : Beside) (deselect : Bool) (s : State) :
    Concludes s (idleStopAtInstant c code b deselect s) :=
  (eventAlone_concludes b deselect false _).after ((idleStopBefore_inner _ c code s).concludes fun he => he)

theorem haltAtInstant_concludes (b : Beside) (deselect : Bool) (s : State) :
    Concludes s (haltAtInstant b deselect s) := by
  unfold haltAtInstant
  split
  · exact idleStopAtInstant_concludes _ _ b deselect s
  · split
    · exact eventAlone_concludes b deselect false s
    · have waits : Inner s { s with seq := { s.seq with haltPending := true } } :=
        (Inner.refl s).setSeq fun k => ⟨k.1, k.2⟩
      exact (eventAlone_concludes b deselect true _).after (waits.concludes id)

/-- R39: the stop hands the rest of its hold and the ending, which the command takes itself. -/
theorem emergencyAtInstant_concludes (b : Beside) (deselect : Bool) (s : State) :
    Concludes s (emergencyAtInstant b deselect s) := by
  refine ⟨?_, emergencyAtInstant_sound b deselect, fun hs he => ?_⟩ <;> unfold emergencyAtInstant
  · split
    · exact (idleStopAtInstant_concludes _ _ b deselect s).pending
    · exact (settle_inner _).same.pending.trans
        (eventCommits_pending (fun u => (stopActs_inner u).same.pending) b deselect false s)
  · split
    · exact (idleStopAtInstant_concludes _ _ b deselect s).handed hs he
    · exact settle_events _

theorem resetAtInstant_concludes (b : Beside) (deselect : Bool) (s : State) :
    Concludes s (resetAtInstant b deselect s) := by
  let u : State := resetReportBefore (commitAt deselect) .deviceReset (deviceResetActs (bareEvent b s))
  have reset : Concludes s u := by
    have reported : Inner (deviceResetActs (bareEvent b s)) u := resetReportBefore_inner _ _ _
    exact ⟨reported.same.pending.trans ((deviceResetActs_pending _).trans (bareEvent_act b s).same.pending),
      fun hs => reported.sound (deviceResetActs_sound ((bareEvent_act b s).sound hs)),
      fun _ _ => deviceResetActs_events (bareEvent b s)⟩
  have committed : Concludes s { commitAt deselect u with reports := u.reports } := by
    have commit := (commitAt_concludes deselect u).after reset
    exact ⟨commit.pending, fun hs => ((Inner.refl _).setReports fun _ => (reset.sound hs).reports).sound (commit.sound hs),
      commit.handed⟩
  exact (judgeSources_concludes _).after committed

/-! ### One instant -/

theorem instantWith_concludes (host : Option HostAccess) (b : Beside) (deselect : Bool) (s : State) :
    Concludes s (instantWith host b deselect s) := by
  unfold instantWith
  split
  · exact eventAlone_concludes b deselect false s
  · split
    · unfold immediateAtInstant
      split
      · exact haltAtInstant_concludes b deselect s
      · split
        · exact emergencyAtInstant_concludes b deselect s
        · exact resetAtInstant_concludes b deselect s
    · exact accessAtInstant_concludes _ b deselect s
  · exact accessAtInstant_concludes _ b deselect s

theorem instant_concludes (host : Option HostAccess) (b : Beside) (deselect : Bool) (s : State) :
    Concludes s (instant host b deselect s) := by
  unfold instant
  split
  · exact instantWith_concludes host b deselect s
  · rename_i quiet
    split
    · rename_i tab
      exact (bareEvent_concludes (not_reacts_of_changesTab tab _)).after (instantWith_concludes host _ deselect s)
    · exact (instantWith_concludes host _ deselect _).after (bareEvent_concludes (by simpa using quiet))

/-! ### The frames of the link (R159, R163) -/

theorem deselectFrame_concludes (host : Option HostAccess) (b : Beside) (s : State) :
    Concludes s (deselectFrame host b s) := (instant_concludes host b true _).after (concludes_link s _)

theorem clockFrame_concludes (w : Sent) (n : Nat) (high : Bool) (s : State) : Concludes s (clockFrame w n high s) := by
  refine ⟨?_, clockFrame_sound w n high, fun _ he => ?_⟩ <;> unfold clockFrame clockEdges
  · split <;> rfl
  · split <;> exact he

theorem openFrame_concludes (w : Sent) (n : Nat) (high : Bool) (s : State) : Concludes s (openFrame w n high s) := by
  refine (clockFrame_concludes w n high _).after ((concludes_link _ _).after
    (t := if s.link.frame.selected then deselectFrame none .nothing s else s) ?_)
  split
  · exact deselectFrame_concludes _ _ s
  · exact .refl s

theorem closeFrame_concludes (w : Sent) (f : FrameBits) (s : State) : Concludes s (closeFrame w f s) := by
  unfold closeFrame
  split
  · exact (deselectFrame_concludes _ _ _).after (clockFrame_concludes w _ _ s)
  · exact instant_concludes f.host f.beside false s

theorem linkFrame_concludes (w : Sent) (f : FrameBits) (s : State) : Concludes s (linkFrame w f s) := by
  unfold linkFrame
  split
  · exact (closeFrame_concludes w f _).after (openFrame_concludes w _ _ s)
  · exact openFrame_concludes w _ _ s
  · unfold continueFrame
    split
    · exact clockFrame_concludes w _ _ s
    · exact .refl s
  · exact closeFrame_concludes w f s

/-! ### All commands -/

theorem Concludes.next {s u t : State} (k : Concludes s u)
    (h : (.next u : Host.Outcome State Fault Refusal) = .next t) : Concludes s t := by
  injection h with h
  exact h ▸ k

/-- A command that acts under a condition and does nothing otherwise. -/
theorem Concludes.guarded {p : Prop} [Decidable p] {s u t : State} (k : Concludes s u)
    (h : (if p then .next u else .next s : Host.Outcome State Fault Refusal) = .next t) : Concludes s t := by
  split at h
  · exact k.next h
  · exact (Concludes.refl s).next h

theorem strobeConflict_concludes {cs dack : Bool} {addr : BitVec 3} {s t : State}
    (h : exec (.strobeConflict cs dack addr) s = .next t) : Concludes s t := by
  change execStrobeConflict cs dack addr s = .next t at h
  unfold execStrobeConflict at h
  split at h
  · exact (Concludes.refl s).next h
  · split at h
    · exact ((concludes_host _ _).after (concludes_host s _)).next h
    · exact (concludes_host s _).next h

theorem csDackConflict_concludes {access : HostAccess} {s t : State} (h : exec (.csDackConflict access) s = .next t) :
    Concludes s t := by
  change execCsDackConflict access s = .next t at h
  unfold execCsDackConflict at h
  split at h
  · refine Concludes.next ?_ h
    cases access with
    | read addr => exact (concludes_host _ _).after (concludes_host s _)
    | write addr v => exact concludes_host s _
  · exact (hostAccess_concludes access s).next h

theorem headerEvent_concludes {bits : BitVec 64} {s t : State} (h : exec (.headerEvent bits) s = .next t) :
    Concludes s t := by
  change execHeaderEvent bits s = .next t at h
  unfold execHeaderEvent at h
  split at h
  · exact (Concludes.refl s).next h
  · exact (fieldRead_inner _ bits s).settled.next h

theorem captureResult_concludes {data : List Byte} {trailer : BitVec 32} {s t : State}
    (h : exec (.captureResult data trailer) s = .next t) : Concludes s t := by
  change execCaptureResult data trailer s = .next t at h
  unfold execCaptureResult at h
  split at h
  · exact (Concludes.refl s).next h
  · exact (captureEnds_inner _ data trailer s).settled.next h

theorem gapReached_concludes (s : State) : Concludes s (gapReached s) := by
  unfold gapReached
  split
  · exact .refl s
  · split
    · exact .refl s
    · split
      · exact (blankMet_inner s).settled
      · exact (blankBack_inner s).settled
      · exact .refl s

theorem strobeVerdict_concludes (good : Bool) (s : State) : Concludes s (strobeVerdict good s) := by
  unfold strobeVerdict
  split
  · exact (onVerdict_inner _ s).settled
  · exact .refl s

theorem windowCloses_concludes (s : State) : Concludes s (windowCloses s) := by
  unfold windowCloses
  split
  · exact (onVerdict_inner _ s).settled
  · exact .refl s

theorem endMarkEnds_concludes (s : State) : Concludes s (endMarkEnds s) := by
  unfold endMarkEnds
  split
  · split
    · exact (endComplete_inner _ s).settled
    · exact .refl s
  · exact .refl s

theorem waitExpired_concludes (s : State) : Concludes s (waitExpired s) :=
  (waitExpired_inner s).concludes fun _ => settle_events _

/-- A change of CARTIN with nothing else at its instant. -/
theorem cartinChange_concludes (how : Change) (v : Bool) (s : State) : Concludes s (cartinChange id how v s) := by
  refine (cartinChange_act how v s).concludes fun he => ?_
  unfold cartinChange
  split
  · exact settle_events _
  · exact he

/-- SEEK_EXHAUSTED, in a seek that runs. -/
theorem seekExhausted_concludes {s t : State} (h : exec .seekExhausted s = .next t) : Concludes s t := by
  change execSeekExhausted s = .next t at h
  unfold execSeekExhausted at h
  split at h
  · rename_i runs
    exact (exhaustSeek_inner runs).settled.next h
  · exact (Concludes.refl s).next h

/-- Every command but the release of RST/, which ends a reset. -/
theorem exec_concludes {i : Instr} {s t : State} (hi : i ≠ .rstRelease) (h : exec i s = .next t) : Concludes s t := by
  have order {c : Byte} (hc : orderCode i = some c) : Concludes s t := by
    rw [exec_order hc] at h
    exact (hostAccess_concludes (.write 1 c) s).next h
  cases i with
  | rstRelease => exact absurd rfl hi
  | dataRead via =>
    exact (dataAccess_concludes (csRead_concludes (dataPortRead_concludes s)) (dataPortRead_concludes s) via).next h
  | dataWrite via v =>
    exact (dataAccess_concludes (csWrite_concludes (dataPortWrite_concludes v s)) (dataPortWrite_concludes v s)
      via).next h
  | strobeConflict => exact strobeConflict_concludes h
  | csDackConflict => exact csDackConflict_concludes h
  | param v => exact (csWrite_concludes (stageParam_concludes v s)).next h
  | reportRead => exact (csRead_concludes (readReport_concludes s)).next h
  | acknowledge => exact (csWrite_concludes (ackReport_concludes s)).next h
  | reportRewind => exact (csWrite_concludes (rewindReport_concludes s)).next h
  | interruptEnable v => exact (csWrite_concludes (act := setEnables v) (concludes_host s _)).next h
  | flagClear v => exact (csWrite_concludes (act := clearFlags v) (concludes_host s _)).next h
  | registerWrite addr v => exact (hostAccess_concludes (.write addr v) s).next h
  | setupDataRead => exact (csRead_concludes (setupRead_concludes s)).next h
  | setupDataWrite v => exact (csWrite_concludes (setupWrite_concludes v s)).next h
  | faultClear v =>
    exact (csWrite_concludes (act := fun t => setupWrite v (setIndex 0x44 t))
      ((setupWrite_concludes v _).after (concludes_host s _))).next h
  | mapEntryCommit v =>
    exact (csWrite_concludes (act := fun t => setupWrite v (setIndex 0x69 t))
      ((setupWrite_concludes v _).after (concludes_host s _))).next h
  | mark | clearMap | load | unload | rewind | locate | moveRaw | spaceBlocks | spaceFences | seekEnd | readBlocks
  | verifyBlocks | writeBlocks | writeFences | eraseRemainder | unknownCode | halt | emergencyStop | deviceReset =>
    exact order rfl
  | orderDeparture => exact (depart_inner s).settled.guarded h
  | capstanStep input header => exact (instant_concludes input.host _ false s).next h
  | dwellExpiry | settleDelayExpiry => exact (waitExpired_concludes s).guarded h
  | tachPulse => exact ((clearStall_inner s).concludes id).next h
  | stall => exact ((stallFault_inner _).after (clearStall_inner s)).settled.guarded h
  | seekExhausted => exact seekExhausted_concludes h
  | gapLimitReached => exact (gapReached_concludes s).next h
  | headerEvent => exact headerEvent_concludes h
  | captureResult => exact captureResult_concludes h
  | verifyVerdict good => exact (strobeVerdict_concludes good s).next h
  | verdictWindowExpiry => exact (windowCloses_concludes s).next h
  | endMarkComplete => exact (endMarkEnds_concludes s).next h
  | repositionResume | writeWaitEnd => exact (beginRun_inner s).settled.guarded h
  | cartridgeInserted bots eots =>
    exact ((cartinChange_concludes .level true _).after (concludes_inputs s _)).next h
  | cartridgeRemoved => exact (cartinChange_concludes .level false s).next h
  | healthInputChange input high => exact (instant_concludes input.host _ false s).next h
  | peek f | poke f | peekClear f | ping f => exact (linkFrame_concludes _ f s).next h
  | standby => exact ((enterStandby_inner s).concludes id).guarded h
  | sleepDeadline => exact (forcedSleep_concludes s).guarded h
  | forcedEntry | wake => exact ((followSlp_concludes _).after (concludes_inputs s _)).next h
  | hostPortActivation => exact ((Inner.refl s).setPower (x := { s.power with portWait := 0 }).concludes id).next h
  | powerOn pins => exact (powerOnReset_concludes pins s).next h
  | rstAssertion =>
    change execRstAssertion s = .next t at h
    unfold execRstAssertion at h
    split at h
    · exact (Concludes.refl s).next h
    · exact (assertRst_concludes s).next h
  | deferredEntry => exact ((enterSleep_inner s).concludes fun _ => rfl).guarded h

/-! ### The millisecond (R74, R171; log 4) -/

theorem tickDeadline_concludes (s : State) : Concludes s (tickDeadline s) := by
  unfold tickDeadline
  split
  · split
    · exact forcedSleep_concludes s
    · exact (Inner.refl s).setPower.concludes id
  · exact .refl s

theorem tickWaits_concludes (s : State) : Concludes s (tickWaits s) := by
  refine (tickWaits_inner s).concludes fun he => ?_
  unfold tickWaits
  split
  · split
    · exact settle_events _
    · exact he
  · split
    · split
      · exact settle_events _
      · exact he
    · exact he

theorem tickStandby_concludes (s : State) : Concludes s (tickStandby s) := by
  refine (tickStandby_inner s).concludes fun he => ?_
  unfold tickStandby
  split
  · split <;> exact he
  · exact he

theorem tickTimers_concludes (s : State) : Concludes s (tickTimers s) := by
  unfold tickTimers
  split
  · exact .refl s
  · exact (tickStandby_concludes _).after ((tickWaits_concludes _).after ((tickPort_inner s).concludes id))

theorem awakeTick_concludes (s : State) : Concludes s (awakeTick s) := by
  unfold awakeTick
  dsimp only
  split
  · exact tickDeadline_concludes s
  · have sampled (u : State) : Concludes u (tickInputs u) := (tickInputs_act u).concludes fun _ => settle_events _
    exact (tickTimers_concludes _).after ((sampled _).after (tickDeadline_concludes s))

theorem msTick_concludes (s : State) : Concludes s (msTick s) := by
  have sampled : Concludes s (sampleSlp s) := concludes_inputs s _
  by_cases stands : SlpStands s
  · rw [msTick_stands stands]
    split
    · exact sampled
    · exact (awakeTick_concludes _).after sampled
  · have followed := (followSlp_concludes (setSlp s.inputs.slp.pin s)).after (concludes_inputs s _)
    rw [msTick_follows stands]
    dsimp only
    split
    · exact followed
    · exact (awakeTick_concludes _).after followed

/-- Settles O6, by the command, or by the millisecond of an empty queue. -/
theorem noEventLeft : Obligations.NoEventLeft := by
  unfold Obligations.NoEventLeft
  refine ⟨fun i s t sound held quiet h => ?_, fun s t sound _ quiet empty h => ?_⟩
  · by_cases released : i = .rstRelease
    · subst released
      change execRstRelease s = .next t at h
      unfold execRstRelease at h
      split at h
      · rename_i low
        injection h with h
        exact h ▸ ⟨releaseRst_pending s, releaseRst_events sound low held⟩
      · injection h with h
        exact h ▸ ⟨rfl, quiet⟩
    · have concluded := exec_concludes released h
      exact ⟨concluded.pending, concluded.handed sound quiet⟩
  · rw [step_idle empty] at h
    have concluded := (msTick_concludes s).next h
    exact ⟨concluded.pending.trans empty, concluded.handed sound quiet⟩

end Sys2Proof.Machine
end

section
/-! SUPPORT. The MAP ENTRY window (R113, R116): what a commit inserts, and the statement about it. -/

namespace Sys2Proof.Machine

/-! ### The window in Setup Space (R116) -/

theorem exec_mapEntryCommit (v : Byte) {s : State} (h : portActive s = true) :
    exec (.mapEntryCommit v) s = .next (setupWrite v (setIndex 0x69 s)) := congrArg _ (csWrite_active _ h)

/-- R116, R187: 69h is the highest byte of the window. -/
theorem itemAt_windowEnd {r : ItemRow} (h : itemAt 0x69 = some r) : r.item.cls = .window ∧ r.base + r.size = 0x6A := by
  have row : itemAt 0x69 = some ⟨0x62, 8, .mapEntry⟩ := by decide
  cases row.symm.trans h
  exact ⟨rfl, rfl⟩

/-- R16, R116: at the highest byte of the window the assembled entry is handed to the map. -/
theorem writeItem_window {r : ItemRow} (v : Byte) {s : State} (h : r.item.cls = .window)
    (hl : s.host.setupIndex.toNat + 1 = r.base + r.size) :
    writeItem r v s = commitEntry (assembled s r v) (clearShadow r s) := by
  rw [writeItem, if_neg (by simp [h]), if_neg (by omega), commitValue, h]

theorem exec_mapEntryCommit_entry (v : Byte) {r : ItemRow} {s : State} (hp : portActive s = true)
    (hr : itemAt 0x69 = some r) : exec (.mapEntryCommit v) s =
      .next (setIndex 0x6A (commitEntry (assembled (setIndex 0x69 s) r v) (clearShadow r (setIndex 0x69 s)))) := by
  obtain ⟨window, last⟩ := itemAt_windowEnd hr
  rw [exec_mapEntryCommit v hp, setupWrite_item (s := setIndex 0x69 s) v hr,
    writeItem_window (s := setIndex 0x69 s) v window last.symm]
  rfl

/-! ### An insertion by the host (R113, R116) -/

/-- R116: the four grounds of a refusal. -/
theorem entryRefused_iff (s : State) (n : Nat) : entryRefused s n = true ↔
    s.seq.active.isSome = true ∨ tableValid s.setup = false ∨ (s.setup.parts.get (entryPart n)).enabled = false ∨
      inRegion s.setup (entryPart n) (entryTick n) = false := by
  simp [entryRefused, or_assoc]

theorem commitEntry_refused {s : State} {n : Nat} (h : entryRefused s n = true) :
    commitEntry n s = setSetupError 0x62 s := if_pos h

theorem commitEntry_accepted {s : State} {n : Nat} (h : ¬ entryRefused s n = true) : commitEntry n s =
    { s with place := mapInsert (entryPart n) (entryNumber n) (entryTick n) .host s.place } := if_neg h

/-- R116: an entry that none was used after stands first in the use order. -/
theorem usePlace_newest {map : List MapEntry} {e : MapEntry} (h : ∀ d ∈ map, d.stamp ≤ e.stamp) :
    usePlace map e = 0 := by
  rw [usePlace, List.length_eq_zero_iff, List.filter_eq_nil_iff]
  exact fun d hd => by simpa using h d hd

/-- R113: the entry that an insertion makes. -/
def insertedEntry (p : PartNo) (n : BlockNo) (t : Int) (source : MapSource) (q : Place) : MapEntry :=
  { part := p, number := n, origin := BitVec.ofInt 24 t, source := source, stamp := q.mapClock }

/-- R113: an insertion makes its entry the most recently used. -/
theorem mapInsert_newest {q : Place} (h : MapSound q) (p : PartNo) (n : BlockNo) (t : Int) (source : MapSource) :
    insertedEntry p n t source q ∈ (mapInsert p n t source q).map ∧
      usePlace (mapInsert p n t source q).map (insertedEntry p n t source q) = 0 := by
  refine ⟨mem_placeEntry.2 (.inl rfl), usePlace_newest fun d hd => ?_⟩
  rcases mem_placeEntry.1 hd with rfl | kept
  · exact Nat.le_refl _
  · obtain ⟨-, -, -, used⟩ := h
    exact Nat.le_of_lt (used d (List.mem_filter.1 ((evict_sublist _).subset kept)).1)

/-- Settles O20, by whether the map refuses the entry. -/
theorem mapEntryCommit : Obligations.MapEntryCommit := by
  unfold Obligations.MapEntryCommit
  intro v r s sound port row u n host
  have refuses : entryRefused (clearShadow r u) n = true ↔ _ := entryRefused_iff (clearShadow r u) n
  have run : exec (.mapEntryCommit v) s = .next (setIndex 0x6A (commitEntry n (clearShadow r u))) :=
    exec_mapEntryCommit_entry v port row
  rw [run]
  refine ⟨fun grounds => ?_, fun idle valid enabled region => ?_⟩
  · rw [commitEntry_refused (refuses.2 grounds)]
    rfl
  · have accepted : ¬ entryRefused (clearShadow r u) n = true := by
      rw [refuses]
      simp [clearShadow, u, idle, valid, enabled, region]
    obtain ⟨stands, newest⟩ := mapInsert_newest sound.map (entryPart n) (entryNumber n) (entryTick n) .host
    rw [commitEntry_accepted accepted]
    exact ⟨_, rfl, rfl, rfl, _, stands, rfl, rfl, by simp [insertedEntry, entryTick], rfl, newest⟩

end Sys2Proof.Machine
end

section
/-! SUPPORT. Orders that begin with a move-to from rest (R77, R89, R90, R99, R103 to R105, R107, R109, R112, R123, R131):
the coarse move and the approach, and the statements about them. -/

namespace Sys2Proof.Machine

/-! ### A move-to of a transport at rest (R77, R83, R89, R90) -/

section

variable {e : CtlEnv} {m : Motion} {t : Int}

/-- R89, R90: no marker and no limit forbids the first step toward a tick within the limits. -/
theorem startRefused_within (hb : e.bots = false) (he : e.eots = false) (lo : 0 ≤ t) (hi : t ≤ e.setup.maxTape.toNat)
    (hd : m.dir = if m.pos < t then .forward else .reverse) : startRefused e m = none := by
  have marker : markerAhead e m.dir = none := by cases h : m.dir <;> simp [markerAhead, hb, he]
  have limit : limitAt e.setup m = none := by
    unfold limitAt
    split at hd
    · simp only [hd, if_neg (show ¬ (e.setup.maxTape.toNat : Int) ≤ m.pos by omega)]
    · simp only [hd, if_neg (show ¬ m.pos ≤ -1 by omega)]
  simp [startRefused, marker, limit]

/-- R77, R83: such a move-to hands no event and keeps the reference. -/
theorem requestMove_within (hm : m.state = .stopped) (hs : m.settling = false) (hb : e.bots = false)
    (he : e.eots = false) (lo : 0 ≤ t) (hi : t ≤ e.setup.maxTape.toNat) (away : t ≠ m.pos) (r : Nat) :
    (requestMove e 0 m (.moveTo t r)).events = [] ∧ (requestMove e 0 m (.moveTo t r)).motion.refValid = m.refValid := by
  let d : Dir := if m.pos < t then .forward else .reverse
  have launches : requestMove e 0 m (.moveTo t r) = launch e (m.opening (.moveTo t r)) d :=
    (requestMove_stopped hm hs).trans (if_neg away)
  rw [launches, launch]
  split
  · exact ⟨rfl, rfl⟩
  · have free : startRefused e { m.opening (.moveTo t r) with dir := d } = none :=
      startRefused_within hb he lo hi rfl
    rw [startMove_allowed free]
    exact ⟨rfl, rfl⟩

end

/-- R83, R97: a move-to of the active order in a part that is awake and at rest, its way clear. -/
theorem moveTo_starts {s : State} {t : Int} (hp : s.power.state = .active) (hA : Anchored s)
    (hm : s.motion.state = .stopped) (hs : s.motion.settling = false) (hc : profile s = s.setup) (way : ClearWay s t) :
    moveTo t s = { s with
      motion := (requestMove { setup := s.setup, bots := false, eots := false } 0 s.motion
        (.moveTo t s.setup.searchRate.toNat)).motion } := by
  obtain ⟨bots, eots, lo, hi, away⟩ := way
  let e : CtlEnv := { setup := s.setup, bots := false, eots := false }
  have env : ctlEnv s = e := by simp only [ctlEnv, hc, bots, eots, e]
  obtain ⟨quiet, kept⟩ := requestMove_within (e := e) hm hs rfl rfl lo hi away s.setup.searchRate.toNat
  rw [moveTo, ask_awake (by simp [hp]), env, hc, handOver, quiet]
  simp only [List.append_nil, anchored_place hA _ kept]
  rfl

/-- R28: the part with the order that departs on its way, the position kept or forgotten. -/
def settingOut (code : Byte) (q : Option Position) (b : Active) (s : State) : State :=
  { departed code s with place := { s.place with position := q } }.running b

/-- R27, R28: an order written to an idle part that begins with a move-to on a clear way. -/
theorem Ready.exec_moves {i : Instr} {code : Byte} {k : OrderKind} {t : Int} {q : Option Position} {b : Active}
    {s : State} (h : Ready s) (hi : queuedCode i = some code) (hk : orderKind code = some k)
    (hc : startCheck s s.setup (newEntry code s) = none) (hw : k.isWrite = true → s.banks.anyRead = false)
    (hq : q.isSome = true → s.motion.refValid = true) (snap : b.snap = s.setup)
    (phase : b.phase ≠ .waitBank ∧ b.phase ≠ .repWait) (way : ClearWay s t)
    (hb : beginOrder k s.seq.staging (departed code s) = moveTo t (settingOut code q b s)) :
    exec i s = .next { settingOut code q b s with
      motion := (requestMove { setup := s.setup, bots := false, eots := false } 0 s.motion
        (.moveTo t s.setup.searchRate.toNat)).motion } := by
  have starts := ((h.departEntry_begins hc hk).trans hb).trans
    (moveTo_starts (s := settingOut code q b s) h.awake hq h.rest.1 h.rest.2 snap way)
  have awake : s.power.state ≠ .sleepPending := by simp [h.awake]
  exact h.exec_departs hi (by simpa [hk] using hw) starts (steady_of h.events awake rfl phase.1 phase.2)

/-! ### The coarse move (R103 to R105) -/

/-- R103 to R105: the order on its coarse move. -/
def Active.travelling (a : Active) (origin target : Int) : Active :=
  { a with phase := .travel, stage := .travel, scan := { a.scan with origin := origin, target := target } }

/-- R103: under a VALID reference a REWIND goes to the start of its partition. -/
theorem beginRewind_travels {s : State} {a : Active} (hr : s.motion.refValid = true) :
    beginRewind (s.running a) = moveTo (partStart a.snap a.part - a.snap.approachMargin.toNat)
      ((forgetPosition s).running (a.travelling a.scan.origin a.scan.target)) := if_pos hr

/-- R105: under a VALID reference a LOCATE without an anchor goes to the start of its partition. -/
theorem beginLocate_travels {s : State} {a : Active} (params : List Byte) (hr : s.motion.refValid = true)
    (hm : s.place.map = []) (hd : a.departed = none) :
    beginLocate params (s.running a) = moveTo (partStart a.snap a.part - a.snap.approachMargin.toNat)
      ((forgetPosition s).running (a.travelling (partStart a.snap a.part) (paramBlock params).toNat)) := by
  let u : State := (forgetPosition s).running { a with scan := { a.scan with target := (paramBlock params).toNat } }
  have map : u.place.map = [] := hm
  have zeroed : beginLocate params (s.running a) = locateFrom u := if_pos hr
  have active : u.seq.active = some { a with scan := { a.scan with target := (paramBlock params).toNat } } := rfl
  simp only [zeroed, locateFrom, active, map, hd]
  rfl

/-- R104: a MOVE RAW goes by its count of ticks. -/
theorem beginMoveRaw_travels (s : State) (a : Active) (params : List Byte) :
    beginMoveRaw params (s.running a) = moveTo (s.motion.pos + paramTicks params)
      ((forgetPosition s).running (a.travelling a.scan.origin (s.motion.pos + paramTicks params))) := rfl

/-- Settles O27: each order departs at once, and its coarse move starts from the rest. -/
theorem travelStarts : Obligations.TravelStarts := by
  unfold Obligations.TravelStarts
  intro i code k t s hi hk h hc valid way a start orders
  let b : Active := a.travelling (if k = .locate then start else 0)
    (if k = .locate then (paramBlock s.seq.staging).toNat else if k = .moveRaw then t else 0)
  have begins : beginOrder k s.seq.staging (departed code s) = moveTo t (settingOut code none b s) := by
    rcases orders with ⟨rfl, rfl⟩ | ⟨rfl, unknown, empty, rfl⟩ | ⟨rfl, rfl⟩
    · exact beginRewind_travels (s := departed code s) (a := a) valid
    · exact beginLocate_travels (s := departed code s) (a := a) s.seq.staging valid empty unknown
    · exact beginMoveRaw_travels (departed code s) a s.seq.staging
  have positioning : k.isWrite = false := by
    rcases orders with ⟨rfl, -⟩ | ⟨rfl, -⟩ | ⟨rfl, -⟩ <;> rfl
  rw [h.exec_moves (q := none) (b := b) hi hk hc (by simp [positioning]) nofun rfl ⟨nofun, nofun⟩ way begins]
  rfl

/-! ### The approach to a slot (R99, R107, R109, R112, R123, R131) -/

/-- R99: an approach from elsewhere than its tick. -/
theorem approach_away {s : State} {a : Active} {slot : Int} (stage : Stage)
    (away : slot - a.snap.approachMargin.toNat ≠ s.motion.pos) : approach slot stage (s.running a) =
      moveTo (slot - a.snap.approachMargin.toNat) (s.running { a with phase := .approach, stage := stage }) :=
  if_neg (Ne.symm away)

section

variable {s : State} {a : Active} {p : Position}

/-- R107: a forward SPACE order short of any EOD. -/
theorem beginSpace_forward {params : List Byte} (forward : 0 < paramSpace params) (eod : p.eod = false) :
    beginSpace params p (s.running a) =
      approach p.slot .scan (s.running { a with scan := scanAt p (p.next.toNat + paramSpace params) }) := by
  rw [beginSpace, if_pos forward, eod]
  rfl

/-- R109: a reverse SPACE order whose head stands before its slot. -/
theorem beginSpace_back {params : List Byte} (back : paramSpace params < 0) (low : s.motion.pos < p.slot) :
    beginSpace params p (s.running a) = moveTo p.slot (s.running { a with
      phase := .travel, stage := .travel, scan := scanAt p (p.next.toNat + paramSpace params) }) := by
  rw [beginSpace, if_neg (by omega)]
  exact if_pos low

/-- R112: a SEEK END short of any EOD. -/
theorem beginSeekEnd_forward (eod : p.eod = false) :
    beginSeekEnd p (s.running a) = approach p.slot .scan (s.running { a with scan := scanAt p 0 }) := by
  rw [beginSeekEnd, eod]
  rfl

/-- R123: a reading order short of any EOD. -/
theorem beginRead_forward (eod : p.eod = false) : beginRead p (s.running a) = approach p.slot .travel (s.running a) := by
  rw [beginRead, eod]
  rfl

/-- R131: an order of the write class. -/
theorem beginWrite_approaches : beginWrite p (s.running a) = approach (appendSlot a p) .travel
    (s.running { a with stream := { a.stream with slot := appendSlot a p } }) := rfl

theorem fromPosition_known {go : Position → State → State} (hp : s.place.position = some p) :
    fromPosition go s = go p s := by
  rw [fromPosition, hp]

/-- R99: the first move of an order that begins with an approach. -/
theorem beginOrder_approaches {k : OrderKind} (hp : s.place.position = some p) (h : approaches k a.entry.params p)
    (away : approachSlot k a p - a.snap.approachMargin.toNat ≠ s.motion.pos) :
    beginOrder k a.entry.params (s.running a) =
      moveTo (approachSlot k a p - a.snap.approachMargin.toNat) (s.running (approaching k a p)) := by
  have known {go : Position → State → State} : fromPosition go (s.running a) = go p (s.running a) :=
    fromPosition_known hp
  cases k with
  | spaceBlocks | spaceFences =>
    obtain ⟨forward, eod⟩ := h
    exact (known.trans (beginSpace_forward forward eod)).trans (approach_away .scan away)
  | seekEnd => exact (known.trans (beginSeekEnd_forward h)).trans (approach_away .scan away)
  | readBlocks | verifyBlocks => exact (known.trans (beginRead_forward h)).trans (approach_away .travel away)
  | writeBlocks | writeFences | eraseRemainder =>
    exact (known.trans beginWrite_approaches).trans (approach_away .travel away)
  | mark | clearMap | load | unload | rewind | locate | moveRaw => exact h.elim

/-- R31, R99: an approach changes neither the order's entry nor its snapshot. -/
theorem approaching_keeps (k : OrderKind) (a : Active) (p : Position) :
    (approaching k a p).entry = a.entry ∧ (approaching k a p).snap = a.snap ∧ (approaching k a p).phase = .approach := by
  cases k <;> exact ⟨rfl, rfl, rfl⟩

/-- R22, R28: the part that an order leaves in setting out, the order being the one accepted. -/
theorem settingOut_eq {code : Byte} {q : Option Position} {b : Active} (h : b.entry = newEntry code s) :
    settingOut code q b s = { s with
      seq := departedSeq code b s
      power := { s.power with standbyTimer := 0 }
      place := { s.place with position := q } } := by
  rw [departedSeq, ← h]
  rfl

end

/-- Settles O28: the order departs at once, and its approach, or its travel to the slot, starts from the rest. -/
theorem approachStarts : Obligations.ApproachStarts := by
  unfold Obligations.ApproachStarts
  intro i code k p s hi hk h hc hp hw a
  have anchored : s.place.position.isSome = true → s.motion.refValid = true := h.anchored
  refine ⟨fun begins way => ?_, fun kinds back low way => ?_⟩
  · obtain ⟨entry, snap, phase⟩ := approaching_keeps k a p
    have ⟨_, _, _, _, away⟩ := way
    have moves := beginOrder_approaches (s := departed code s) (a := a) hp begins away
    rw [h.exec_moves (q := s.place.position) hi hk hc hw anchored snap (by simp [phase]) way moves,
      settingOut_eq entry]
  · have positioning : k.isWrite = false := by rcases kinds with rfl | rfl <;> rfl
    have known : beginOrder k s.seq.staging (departed code s) = beginSpace s.seq.staging p (departed code s) := by
      rcases kinds with rfl | rfl <;> exact fromPosition_known (s := departed code s) hp
    have moves := known.trans (beginSpace_back (s := departed code s) (a := a) back low)
    rw [h.exec_moves (q := s.place.position) (b := { a with
        phase := .travel, stage := .travel, scan := scanAt p (p.next.toNat + paramSpace s.seq.staging) })
      hi hk hc (by simp [positioning]) anchored rfl ⟨nofun, nofun⟩ way moves]
    rfl

end Sys2Proof.Machine
end

section
/-! SUPPORT. The ends of a scan under way (R52, R81, R106, R107, R109, R114, R123): an own condition stops the transport,
and the statements about the block found and the gap too long. -/

namespace Sys2Proof.Machine

section

variable {s : State} {a : Active}

/-! ### Stopping an order under way (R81, R83) -/

/-- R81: the part as an order under way, now `b`, has been asked to stop. -/
def stoppingAs (b : Active) (s : State) : State := { s.running b with motion := s.motion.halting }

theorem askStop_underway {b : Active} (h : Underway s a) (snap : b.snap = a.snap) :
    askStop (s.running b) = stoppingAs b s := by
  have above : b.snap.startRate.toNat < s.motion.rate := by rw [snap]; exact h.above
  exact askStop_under (a := b) rfl above h.moving h.free h.anchored

/-- Log 6: nothing else is due then. -/
theorem settle_stoppingAs {b : Active} (h : Underway s a) (phase : b.phase ≠ .waitBank ∧ b.phase ≠ .repWait) :
    settle (stoppingAs b s) = stoppingAs b s := settle_waiting (a := b) rfl h.events phase

/-- R52: an order without a cause takes the one that arises, in its stage. -/
theorem raise_underway (h : Underway s a) (c : Cause) :
    raise c s = s.running { a with cause := some { cause := c, stage := a.stage } } := by
  rw [raise_some c h.active, h.cause]
  rfl

/-! ### Own conditions (R106, R107, R109, R123) -/

/-- R106, R107, R109: a positioning order whose scan has ended with a cause and a final position. -/
def Active.scanEnded (a : Active) (c : Cause) (final : Option Position) : Active :=
  { a with
    cause := some { cause := c, stage := a.stage }, final := some final
    phase := if final.isSome && c != .boundary then .stopping else .ending, stage := .settle }

theorem scanEnded_phase (a : Active) (c : Cause) (final : Option Position) :
    (a.scanEnded c final).phase ≠ .waitBank ∧ (a.scanEnded c final).phase ≠ .repWait := by
  simp only [Active.scanEnded]
  split <;> exact ⟨nofun, nofun⟩

theorem scanEnds_underway (h : Underway s a) (c : Cause) (final : Option Position) :
    scanEnds c final s = stoppingAs (a.scanEnded c final) s := by
  rw [scanEnds, raise_underway h]
  exact askStop_underway (s := s) (b := a.scanEnded c final) h rfl

theorem settle_scanEnds (h : Underway s a) (c : Cause) (final : Option Position) :
    settle (scanEnds c final s) = stoppingAs (a.scanEnded c final) s := by
  rw [scanEnds_underway h, settle_stoppingAs h (scanEnded_phase a c final)]

/-- R123, R137: a streaming order that has met an own condition. -/
def Active.streamEnded (a : Active) (c : Cause) : Active :=
  { a with cause := some { cause := c, stage := a.stage }, phase := .ending, stage := .settle }

theorem streamEnds_underway (h : Underway s a) (c : Cause) : streamEnds c s = stoppingAs (a.streamEnded c) s := by
  let b : Active := { a with cause := some { cause := c, stage := a.stage } }
  have kept : raiseStop (s.running b) = s.running b := raiseStop_none rfl h.noStop
  rw [streamEnds, raise_underway h, stopToEnd, kept]
  exact askStop_underway (s := s) (b := a.streamEnded c) h rfl

/-! ### GAP LIMIT (R106, R107, R109, R123) -/

theorem gapReached_other (ha : s.seq.active = some a) (h1 : a.phase ≠ .scan) (h2 : a.phase ≠ .scanBack) :
    gapReached s = s := by
  simp only [gapReached, ha]
  split <;> rfl

theorem gapReached_scan (h : Underway s a) (hs : a.phase = .scan) : gapReached s = settle (blankMet s) := by
  simp [gapReached, h.active, h.moving, hs]

theorem gapReached_scanBack (h : Underway s a) (hs : a.phase = .scanBack) : gapReached s = settle (blankBack s) := by
  simp [gapReached, h.active, h.moving, hs]

theorem blankMet_read (ha : s.seq.active = some a) (hr : a.isRead = true) : blankMet s = streamEnds .blank s := by
  simp only [blankMet, ha, hr, if_true]

theorem blankMet_positions (ha : s.seq.active = some a) (hr : a.isRead = false) :
    blankMet s = scanEnds .blank a.scan.landmark s := by
  simp only [blankMet, ha, hr, Bool.false_eq_true, if_false]

theorem blankBack_eq (ha : s.seq.active = some a) : blankBack s = scanEnds .blank a.scan.landmark s := by
  simp only [blankBack, ha]

/-- R106, R109: BLANK ends a scan at its landmark, which the order parks at if it has one. -/
theorem scanEnded_blank (a : Active) (final : Option Position) : a.scanEnded .blank final = { a with
    cause := some { cause := .blank, stage := a.stage }, final := some final, stage := .settle
    phase := if final.isSome then .stopping else .ending } := by
  cases final <;> rfl

end

/-- Settles O48, by the direction of the scan and the kind of the order. -/
theorem gapLimitReached : Obligations.GapLimitReached := by
  unfold Obligations.GapLimitReached
  refine fun a s => ⟨fun active h1 h2 => congrArg _ (gapReached_other active h1 h2), fun under scans => ?_⟩
  have run : exec .gapLimitReached s = .next (gapReached s) := rfl
  rw [run, ← scanEnded_blank]
  rcases scans with scan | back
  · rw [gapReached_scan under scan]
    cases reads : a.isRead with
    | true =>
      rw [blankMet_read under.active reads, streamEnds_underway under, if_pos ⟨rfl, scan⟩,
        settle_stoppingAs (b := a.streamEnded .blank) under ⟨nofun, nofun⟩]
      rfl
    | false =>
      rw [blankMet_positions under.active reads, settle_scanEnds under, if_neg (by simp)]
      rfl
  · rw [gapReached_scanBack under back, blankBack_eq under.active, settle_scanEnds under, if_neg (by simp [back])]
    rfl

/-! ### The block that a LOCATE seeks (R106, R114) -/

/-- R114: what a good header teaches leaves the order under way. -/
theorem Underway.learnt {s : State} {a : Active} (h : Underway s a) (f : HeaderField) (x : Header) :
    Underway (headerLearnt f x a s) (a.metHeader x) where
  active := rfl
  events := h.events
  awake := h.awake
  moving := h.moving
  above := h.above
  free := h.free
  anchored known := h.anchored (by rwa [learnt_position] at known)
  cause := h.cause
  noStop := h.noStop

/-- R106: the header sought ends the scan before its block. -/
theorem locateHeader_found {s : State} {a : Active} {h : Header} (ho : a.scan.origin ≤ h.origin)
    (he : h.origin < partEnd a.snap a.part) (hp : h.part = a.part) (hk : h.kind ≠ .endMark)
    (hn : (h.number.toNat : Int) = a.scan.target) :
    locateHeader a h s = scanEnds .success (before a.part h.number h.origin false) s := by
  simp [locateHeader, Int.not_lt.2 ho, Int.not_le.2 he, hp, hk, hn]

theorem classify_locate {s : State} {a : Active} (h : Header) (ha : s.seq.active = some a) (hs : a.phase = .scan)
    (hk : a.kind = some .locate) : classify h s = locateHeader a h s := by
  have reads : a.isRead = false := by rw [Active.isRead, hk]; rfl
  simp [classify, ha, hs, reads, hk]

/-- Settles O42: the header is learnt, and the scan ends with it. -/
theorem locateFinds : Obligations.LocateFinds := by
  unfold Obligations.LocateFinds
  intro bits place f h a s under hc hk hs stage hf ef good origin region part kind number
  subst ef
  have met : a.metHeader h = { a with gap := 0 } := metHeader_block a kind
  have learnt := under.learnt (recovered place.dir bits) h
  rw [exec_headerEvent_field bits hf, headerMet_good hc under.active good,
    classify_locate (a := a.metHeader h) h rfl hs hk,
    locateHeader_found (a := a.metHeader h) origin region part kind number, settle_scanEnds learnt]
  simp only [met, stoppingAs, State.running, Active.scanEnded, stage]
  rfl

end Sys2Proof.Machine
end

section
/-! SUPPORT. Recording under an order in progress (R118, R133 to R135, R137, R138): what the writer begins with, what a
verdict and the END that ends an order make of the part, and the statements about them. -/

namespace Sys2Proof.Machine

/-! ### What a write-class order records next (R135, R137, R138) -/

/-- R138: block `n`, a FENCE of the order, at a tick. -/
def Active.fenceAt (a : Active) (t : Int) (n : BlockNo) : Recording :=
  { kind := .fence, origin := t, part := a.part, number := n, lengthCode := 0, copy := 0, bank := none }

/-- R135: block `n`, the DATA of a bank, at a tick. -/
def Active.dataAt (a : Active) (t : Int) (n : BlockNo) (id : BankId) : Recording :=
  { kind := .data, origin := t, part := a.part, number := n, lengthCode := paramLength a.entry.params, copy := 0
    bank := some id }

/-- R137: the END at a tick, before block `n`. -/
def Active.endAt (a : Active) (t : Int) (n : BlockNo) : Recording :=
  { kind := .endMark, origin := t, part := a.part, number := n, lengthCode := 0, copy := 0, bank := none }

/-- R135: the same block once more, at its end, with the next copy number. -/
def Recording.again (r : Recording) : Recording := { r with origin := r.blockEnd, copy := r.copy + 1 }

/-! ### The writer begins (R61, R133, R137) -/

/-- R46, R133: the order as it begins to record. -/
def Active.recording (r : Recording) (a : Active) : Active :=
  { a with stream := { a.stream with
    recorded := true, warning := a.stream.warning || passesWarning a.snap r.part r.blockEnd } }

/-- R137: the order as it begins to record the END that ends it. -/
def Active.lastEnd (r : Recording) (a : Active) : Active :=
  { a with
    phase := .write, stage := .settle
    stream := { a.stream with
      recorded := true, endUse := .finish
      warning := a.stream.warning || passesWarning a.snap r.part r.blockEnd } }

/-- R61: the part as it begins to record for the order, now `b`. -/
def State.recording (r : Recording) (b : Active) (s : State) : State :=
  { s.running b with framer := { s.framer with writer := .recording r, gate := true, fieldBytes := [] } }

/-- R133: the position before a block, at its slot. -/
def Recording.place (r : Recording) : Position := { part := r.part, next := r.number, slot := r.origin, eod := false }

/-- R118, R133: the part as it begins to record a block, with the banks as that leaves them. -/
def State.recordingBlock (r : Recording) (b : Active) (k : Banks) (s : State) : State :=
  { s.recording r b with banks := k, place := { s.place with position := some r.place } }

/-- An order that has recorded before, in a part with a VALID reference and no write inhibit. -/
structure Records (s : State) (a : Active) : Prop where
  active : s.seq.active = some a
  valid : s.motion.refValid = true
  allowed : s.health.writeFault = false
  recorded : a.stream.recorded = true

section

variable {s : State} {a b : Active}

theorem setPosition_valid (hv : s.motion.refValid = true) (p : Option Position) :
    setPosition p s = { s with place := { s.place with position := p } } := by
  simp only [setPosition, hv, if_true]

theorem beginRecording_allowed (hw : s.health.writeFault = false) (r : Recording) : beginRecording r s = { s with
    framer := { s.framer with writer := .recording r, gate := true, fieldBytes := [] } } := by
  simp only [beginRecording, hw, Bool.not_false]

/-- R115, R133: only the first thing that an order records truncates the map. -/
theorem noteRecorded_again (ha : s.seq.active = some b) (hr : a.stream.recorded = true) (snap : a.snap = b.snap)
    (r : Recording) : noteRecorded a r s = s.running (b.recording r) := by
  simp only [noteRecorded, hr, if_true, snap]
  exact onActive_running _ ha

/-- R133: a block that an order records after others. -/
theorem recordBlock_again (h : Records s b) (hr : a.stream.recorded = true) (snap : a.snap = b.snap) (r : Recording) :
    recordBlock a r s = s.recordingBlock r (b.recording r) (s.banks.putOnTape r) := by
  have noted := noteRecorded_again (s := { s with banks := s.banks.putOnTape r }) h.active hr snap r
  rw [recordBlock, noted, setPosition_valid, beginRecording_allowed]
  · rfl
  · exact h.allowed
  · exact h.valid

/-- R137: the END that ends an order which has recorded before. -/
theorem recordEnd_finish (h : Records s a) (t : Int) (n : BlockNo) :
    recordEnd .finish t n s = s.recording (a.endAt t n) (a.lastEnd (a.endAt t n)) := by
  simp only [recordEnd, h.active, if_true]
  rw [noteRecorded_again h.active h.recorded rfl, beginRecording_allowed]
  · rfl
  · exact h.allowed

/-- Log 6: nothing else is due as a block begins. -/
theorem settle_recordingBlock (he : s.events = []) (hb : b.phase ≠ .waitBank ∧ b.phase ≠ .repWait) (r : Recording)
    (k : Banks) : settle (s.recordingBlock r b k) = s.recordingBlock r b k :=
  settle_waiting (a := b) rfl he hb

/-- Log 6: nothing else is due as the END that ends the order begins. -/
theorem settle_lastEnd (he : s.events = []) (r : Recording) :
    settle (s.recording r (b.lastEnd r)) = s.recording r (b.lastEnd r) :=
  settle_waiting (a := b.lastEnd r) rfl he ⟨nofun, nofun⟩

/-! ### The next block (R133, R135, R138) -/

theorem recordOrFull_fits {r : Recording} (h : fits a.snap r = true) : recordOrFull a r s = recordBlock a r s :=
  if_pos h

/-- R138: the next block of a WRITE FENCES. -/
theorem startBlock_fence (ha : s.seq.active = some a) (hk : a.kind = some .writeFences) (t : Int) :
    startBlock t s = recordOrFull a (a.fenceAt t (logicalBlock s)) s := by
  simp only [startBlock, ha, hk]
  rfl

/-- R135: the next block of a WRITE BLOCKS that has a FULL WRITE bank. -/
theorem startBlock_data {id : BankId} (ha : s.seq.active = some a) (hk : a.kind = some .writeBlocks)
    (hb : s.banks.fullFor a.entry.tag = some id) (t : Int) :
    startBlock t s = recordOrFull a (a.dataAt t (logicalBlock s) id) s := by
  simp only [startBlock, ha, hk, hb]
  rfl

/-! ### A good verdict (R118, R135) -/

/-- R135: the order as a block of it is verified good. -/
def Active.verified (a : Active) : Active :=
  { a with stream := { a.stream with
    done := a.stream.done + 1, recovered := a.stream.recovered || decide (0 < a.stream.rewrites), rewrites := 0 } }

/-- R118: the banks as the block is verified good. -/
def Recording.release (r : Recording) (k : Banks) : Banks :=
  match r.bank with
  | some id => k.set id .cleared
  | none => k

/-- R118, R135: the part as the block is verified good. -/
def verifiedIn (r : Recording) (a : Active) (s : State) : State :=
  { s.running a.verified with
    banks := r.release s.banks
    place := { s.place with position := some {
      part := r.part, next := nextNumber r.number, slot := r.blockEnd, eod := false } } }

theorem blockDone_eq (h : Records s a) (r : Recording) : blockDone r s = verifiedIn r a s := by
  rw [blockDone, onActive_running, setPosition_valid]
  · rfl
  · exact h.valid
  · exact h.active

theorem Records.verified (h : Records s a) (r : Recording) : Records (verifiedIn r a s) a.verified :=
  ⟨rfl, h.valid, h.allowed, h.recorded⟩

theorem goodVerdict_short (h : Records s a) (r : Recording) (hs : stopWanted s a = false)
    (more : a.stream.done + 1 < paramCount a.entry.params) :
    goodVerdict a r s = startBlock r.blockEnd (verifiedIn r a s) := by
  simp [goodVerdict, blockDone_eq h, hs, Nat.not_le.2 more]

/-- R133: the next block, one that fits, is recorded after the good one. -/
theorem recordOrFull_verified (h : Records s a) (r : Recording) {next : Recording} (fit : fits a.snap next = true) :
    recordOrFull a.verified next (verifiedIn r a s) =
      s.recordingBlock next (a.verified.recording next) ((r.release s.banks).putOnTape next) := by
  rw [recordOrFull_fits (a := a.verified) fit, recordBlock_again (a := a.verified) (h.verified r) h.recorded rfl]
  rfl

/-- R138: the next block of a WRITE FENCES begins at the end of the good one. -/
theorem goodVerdict_fence (h : Records s a) (r : Recording) (hs : stopWanted s a = false)
    (hk : a.kind = some .writeFences) (more : a.stream.done + 1 < paramCount a.entry.params)
    (fit : fits a.snap (a.fenceAt r.blockEnd (nextNumber r.number)) = true) :
    goodVerdict a r s = s.recordingBlock (a.fenceAt r.blockEnd (nextNumber r.number))
      (a.verified.recording (a.fenceAt r.blockEnd (nextNumber r.number))) (r.release s.banks) := by
  rw [goodVerdict_short h r hs more, startBlock_fence (a := a.verified) rfl hk]
  exact recordOrFull_verified h r fit

/-- R118, R135: the next block of a WRITE BLOCKS takes the oldest FULL WRITE bank. -/
theorem goodVerdict_data (h : Records s a) (r : Recording) {id : BankId} (hs : stopWanted s a = false)
    (hk : a.kind = some .writeBlocks) (more : a.stream.done + 1 < paramCount a.entry.params)
    (hb : (r.release s.banks).fullFor a.entry.tag = some id)
    (fit : fits a.snap (a.dataAt r.blockEnd (nextNumber r.number) id) = true) :
    goodVerdict a r s = s.recordingBlock (a.dataAt r.blockEnd (nextNumber r.number) id)
      (a.verified.recording (a.dataAt r.blockEnd (nextNumber r.number) id))
      ((r.release s.banks).putOnTape (a.dataAt r.blockEnd (nextNumber r.number) id)) := by
  rw [goodVerdict_short h r hs more, startBlock_data (a := a.verified) (s := verifiedIn r a s) rfl hk hb]
  exact recordOrFull_verified h r fit

/-- R35, R137: at the count, with no order waiting, SUCCESS arises and the END begins. -/
theorem goodVerdict_last (h : Records s a) (r : Recording) (hs : stopWanted s a = false)
    (full : paramCount a.entry.params ≤ a.stream.done + 1) (hq : s.seq.queue = []) :
    goodVerdict a r s =
      recordEnd .finish r.blockEnd (nextNumber r.number) (raise .success (verifiedIn r a s)) := by
  have queue : (verifiedIn r a s).seq.queue = [] := hq
  simp only [goodVerdict, blockDone_eq h, hs, Bool.false_eq_true, if_false, full, if_true, writeBoundary, queue]
  rfl

/-! ### Own conditions of a write (R52, R137) -/

/-- R52: the order with its first cause, in its stage. -/
def Active.causedBy (a : Active) (c : Cause) : Active := { a with cause := some { cause := c, stage := a.stage } }

/-- R52, R137: a condition of an order that has none yet, and the END that ends it. -/
theorem recordEnd_raise (h : Records s a) (hc : a.cause = none) (c : Cause) (t : Int) (n : BlockNo) :
    recordEnd .finish t n (raise c s) =
      s.recording (a.endAt t n) ((a.causedBy c).lastEnd (a.endAt t n)) := by
  have raised : raise c s = s.running (a.causedBy c) := by
    rw [raise_some c h.active, hc]
    rfl
  have records : Records (s.running (a.causedBy c)) (a.causedBy c) := ⟨rfl, h.valid, h.allowed, h.recorded⟩
  rw [raised, recordEnd_finish records]
  rfl

/-! ### A bad verdict (R135) -/

/-- R135, R143: the order as a rewrite is counted. -/
def Active.rewriting (a : Active) : Active :=
  { a with stream := { a.stream with rewrites := a.stream.rewrites + 1, retries := a.stream.retries + 1 } }

/-- R135, R143: the part as a rewrite is counted. -/
def rewritingIn (a : Active) (s : State) : State :=
  { s.running a.rewriting with banks := { s.banks with retries := bump s.banks.retries } }

theorem countRewrite_eq (ha : s.seq.active = some a) : countRewrite s = rewritingIn a s :=
  onActive_some (s := { s with banks := { s.banks with retries := bump s.banks.retries } }) _ ha

/-- R135: below REWRITE LIMIT a block that still fits is recorded again. -/
theorem badVerdict_again (h : Records s a) (r : Recording) (hs : stopWanted s a = false)
    (below : a.stream.rewrites < a.snap.rewriteLimit.toNat) (fit : fits a.snap r.again = true) :
    badVerdict a r s = s.recordingBlock r.again (a.rewriting.recording r.again)
      ({ s.banks with retries := bump s.banks.retries }.putOnTape r.again) := by
  have records : Records (rewritingIn a s) a.rewriting := ⟨rfl, h.valid, h.allowed, h.recorded⟩
  have rewrite : badVerdict a r s = recordBlock a r.again (rewritingIn a s) := by
    rw [← countRewrite_eq h.active]
    simp only [badVerdict, hs, Bool.false_eq_true, if_false, below, if_true]
    exact if_pos fit
  rw [rewrite, recordBlock_again records h.recorded rfl]
  rfl

/-- R135: at REWRITE LIMIT the order ends with WRITE FAILED. -/
theorem badVerdict_limit (r : Recording) (hs : stopWanted s a = false)
    (limit : a.snap.rewriteLimit.toNat ≤ a.stream.rewrites) :
    badVerdict a r s = recordEnd .finish r.blockEnd r.number (raise .writeFailed s) := by
  simp [badVerdict, hs, Nat.not_lt.2 limit]

/-! ### The verdict rows (R134; log 7) -/

theorem strobeVerdict_idle (h : ∀ r, s.framer.writer ≠ .verdict r) (good : Bool) : strobeVerdict good s = s := by
  unfold strobeVerdict
  split
  case h_1 r awaited => exact absurd awaited (h r)
  case h_2 => rfl

theorem strobeVerdict_awaited {r : Recording} (ha : s.seq.active = some a) (hw : s.framer.writer = .verdict r)
    (good : Bool) : strobeVerdict good s = settle (if good then goodVerdict a r s else badVerdict a r s) := by
  simp only [strobeVerdict, onVerdict, ha, hw]

/-- R134: a window that closes without a strobe is a bad verdict. -/
theorem exec_badVerdict {i : Instr} (h : i = .verifyVerdict false ∨ i = .verdictWindowExpiry) (s : State) :
    exec i s = .next (strobeVerdict false s) := by
  rcases h with rfl | rfl <;> rfl

end

/-- Settles O45, by the verdict, the kind of the order, and the count or the limit. -/
theorem verdict : Obligations.Verdict := by
  unfold Obligations.Verdict
  refine fun s => ⟨fun idle => ⟨fun good => congrArg _ (strobeVerdict_idle idle good),
    congrArg _ (strobeVerdict_idle idle false)⟩, ?_⟩
  intro a r under awaited valid allowed recorded notBank notRep
  have records : Records s a := ⟨under.active, valid, allowed, recorded⟩
  have phase : a.phase ≠ .waitBank ∧ a.phase ≠ .repWait := ⟨notBank, notRep⟩
  have good : exec (.verifyVerdict true) s = .next (settle (goodVerdict a r s)) :=
    congrArg _ (strobeVerdict_awaited under.active awaited true)
  have bad (i : Instr) (hi : i = .verifyVerdict false ∨ i = .verdictWindowExpiry) :
      exec i s = .next (settle (badVerdict a r s)) :=
    (exec_badVerdict hi s).trans (congrArg _ (strobeVerdict_awaited under.active awaited false))
  refine ⟨?fence, ?data, ?last, ?limit, ?again⟩
  case fence =>
    rintro _ rfl kind bank more fit
    have kept : r.release s.banks = s.banks := by rw [Recording.release, bank]
    rw [good, goodVerdict_fence records r under.noStop kind more fit, kept]
    exact congrArg _ (settle_recordingBlock (b := a.verified.recording _) under.events phase _ _)
  case data =>
    rintro id full _ bank supply rfl kind more fit
    have freed : r.release s.banks = s.banks.set id .cleared := by rw [Recording.release, bank]
    rw [← freed] at supply ⊢
    rw [good, goodVerdict_data records r under.noStop kind more supply fit]
    exact congrArg _ (settle_recordingBlock (b := a.verified.recording _) under.events phase _ _)
  case last =>
    rintro _ rfl queue full
    rw [good, goodVerdict_last records r under.noStop full queue, recordEnd_raise (records.verified r) under.cause]
    exact congrArg _ (settle_lastEnd (s := verifiedIn r a s) under.events _)
  case limit =>
    rintro _ rfl limit i hi
    rw [bad i hi, badVerdict_limit r under.noStop limit, recordEnd_raise records under.cause]
    exact congrArg _ (settle_lastEnd under.events _)
  case again =>
    rintro _ rfl below fit i hi
    rw [bad i hi, badVerdict_again records r under.noStop below fit]
    exact congrArg _ (settle_recordingBlock (b := a.rewriting.recording _) under.events phase _ _)

/-! ### The END that ends an order (R137) -/

theorem endMarkEnds_other {s : State} (h : ∀ r, s.framer.writer = .recording r → r.kind ≠ .endMark) :
    endMarkEnds s = s := by
  unfold endMarkEnds
  split
  case h_1 r writes => exact if_neg (h r writes)
  case h_2 => rfl

theorem endMarkEnds_end {s : State} {r : Recording} (hw : s.framer.writer = .recording r) (hk : r.kind = .endMark) :
    endMarkEnds s = settle (endComplete r s) := by
  simp only [endMarkEnds, hw, hk, if_true]

/-- R137: the part as the END's trailer has ended: the gate down, the position before the END. -/
def endWritten (r : Recording) (s : State) : State :=
  { s with
    framer := { s.framer with writer := .idle, gate := false, fieldBytes := [] }
    place := { s.place with position := some { part := r.part, next := r.number, slot := r.origin, eod := true } } }

theorem endComplete_finish {s : State} {a : Active} (r : Recording) (ha : s.seq.active = some a)
    (hv : s.motion.refValid = true) (hu : a.stream.endUse = .finish) :
    endComplete r s = stopToEnd (endWritten r s) := by
  simp only [endComplete, ha, hu, setPosition_valid hv]
  rfl

/-- R81, R125, R130, R137: an order with no stop waiting enters stage 4 and its transport begins to stop. -/
theorem stopToEnd_free {s : State} {a : Active} (ha : s.seq.active = some a) (hs : stopWanted s a = false)
    (above : a.snap.startRate.toNat < s.motion.rate) (moving : s.motion.moving = true) (free : s.motion.toRest = false)
    (anchored : Anchored s) :
    stopToEnd s = stoppingAs { a with phase := .ending, stage := .settle } s := by
  rw [stopToEnd, raiseStop_none ha hs, setPhase, onActive_running _ ha]
  exact askStop_under (a := { a with phase := .ending, stage := .settle }) rfl above moving free anchored

/-- Settles O46: the END's trailer has ended, and the order stops. -/
theorem endMarkComplete : Obligations.EndMarkComplete := by
  unfold Obligations.EndMarkComplete
  refine fun s => ⟨fun other => congrArg _ (endMarkEnds_other other), ?_⟩
  intro a r active events _ moving above free valid noStop writes kind use
  have run : exec .endMarkComplete s = .next (endMarkEnds s) := rfl
  let b : Active := { a with phase := .ending, stage := .settle }
  have stops : stopToEnd (endWritten r s) = stoppingAs b (endWritten r s) :=
    stopToEnd_free active noStop above moving free fun _ => valid
  rw [run, endMarkEnds_end writes kind, endComplete_finish r active valid use, stops]
  exact congrArg _ (settle_waiting (a := b) rfl events ⟨nofun, nofun⟩)

end Sys2Proof.Machine
end

section
/-! SUPPORT. The Health Monitor's clear action (R152, R153, R166): what it makes of a sound state, by the host's FAULT
CLEAR and by PEEK-CLEAR; the rest of the transport under a motion fault (R149, R151); the statements about them. -/

namespace Sys2Proof.Machine

/-! ### The transport under a motion fault (R149, R151) -/

theorem Sound.not_moving_of_motionFault {s : State} (h : Sound s) (fault : s.health.motionFault = true) :
    s.motion.moving = false :=
  Bool.eq_false_iff.2 fun moving => moving_runs moving (h.inhibit.2 fault)

/-- Settles O5: a command leaves a sound state, and in a sound state a motion fault inhibits the controller. -/
theorem noMotionUnderFault : Obligations.NoMotionUnderFault := by
  unfold Obligations.NoMotionUnderFault
  intro i s t sound run fault
  exact (exec_sound sound run).not_moving_of_motionFault fault

/-! ### The clear action (R152) -/

/-- R85, R152: in a sound state a clear action changes the fault bits, and lifts the inhibit that they leave
without a ground. -/
theorem clearAction_of_sound {s : State} (h : Sound s) : clearAction s = { s with
    health := s.health.keeping (conditions s)
    motion := { s.motion with
      state := if s.motion.state = .inhibited ∧ (s.health.keeping (conditions s)).motionFault = false then .stopped
        else s.motion.state } } := by
  obtain ⟨_, rfl, form⟩ := clear_form h
  exact form

/-! ### FAULT CLEAR (R16, R153) -/

/-- R153, R187: FAULT CLEAR is a single byte at 44h. -/
def faultClearRow : ItemRow := ⟨0x44, 1, .faultClear⟩

theorem itemAt_faultClear : itemAt 0x44 = some faultClearRow := by decide

/-- R16: the one byte of FAULT CLEAR is its whole value. -/
theorem assembled_faultClear (s : State) (v : Byte) : assembled s faultClearRow v = v.toNat := rfl

/-- R16: at the highest byte of an action the assembled value is handed to FAULT CLEAR. -/
theorem writeItem_action {r : ItemRow} (v : Byte) {s : State} (h : r.item.cls = .action)
    (hl : s.host.setupIndex.toNat + 1 = r.base + r.size) :
    writeItem r v s = commitFaultClear (assembled s r v) (clearShadow r s) := by
  rw [writeItem, if_neg (by simp [h]), if_neg (by omega), commitValue, h]

/-- R16: the shadow bytes outside FAULT CLEAR are all but the one at 44h. -/
theorem outsideItem_faultClear (e : Byte × Byte) : outsideItem faultClearRow e = (e.1 != 0x44) := by
  have outside : outsideItem faultClearRow e = true ↔ e.1.toNat < 0x44 ∨ 0x45 ≤ e.1.toNat := by
    rw [outsideItem, Bool.or_eq_true, decide_eq_true_eq, decide_eq_true_eq]
    rfl
  rw [Bool.eq_iff_iff, outside, bne_iff_ne]
  bv_omega

/-- R15, R16: the part as a write to FAULT CLEAR finds it: the index at 44h, the mark of that byte cleared. -/
def atFaultClear (s : State) : State :=
  { s with host := { s.host with setupIndex := 0x44, shadow := s.host.shadow.filter fun e => e.1 != 0x44 } }

theorem clearShadow_faultClear (s : State) : clearShadow faultClearRow (setIndex 0x44 s) = atFaultClear s := by
  simp only [clearShadow, funext outsideItem_faultClear]
  rfl

theorem exec_faultClear (v : Byte) {s : State} (hp : portActive s = true) :
    exec (.faultClear v) s = .next (setIndex 0x45 (commitFaultClear v.toNat (atFaultClear s))) := by
  have run : exec (.faultClear v) s = .next (setupWrite v (setIndex 0x44 s)) := congrArg _ (csWrite_active _ hp)
  rw [run, setupWrite_item (s := setIndex 0x44 s) v itemAt_faultClear,
    writeItem_action (s := setIndex 0x44 s) v rfl rfl, assembled_faultClear, clearShadow_faultClear]
  rfl

/-- R153: 01h clears while CLEAR AUTHORITY allows it. -/
theorem commitFaultClear_allowed {s : State} (h : s.health.supervisorOnly = false) :
    commitFaultClear 1 s = clearAction s := if_pos ⟨rfl, by simp [h]⟩

theorem commitFaultClear_refused {n : Nat} {s : State} (h : n ≠ 1 ∨ s.health.supervisorOnly = true) :
    commitFaultClear n s = setSetupError 0x44 s := by
  refine if_neg fun ⟨one, allowed⟩ => ?_
  rcases h with other | only
  · exact other one
  · simp [only] at allowed

/-- Settles O19, by whether the clear action is made. -/
theorem faultClearCommand : Obligations.FaultClearCommand := by
  unfold Obligations.FaultClearCommand
  intro v s sound port
  rw [exec_faultClear v port]
  refine ⟨?allowed, ?refused⟩
  case allowed =>
    rintro rfl authority
    have cleared := clearAction_of_sound (s := atFaultClear s) (sound.setHost _)
    refine ⟨_, rfl, ?_⟩
    rw [show (1 : Byte).toNat = 1 from rfl, commitFaultClear_allowed (s := atFaultClear s) authority, cleared]
    exact ⟨rfl, rfl, rfl⟩
  case refused =>
    intro grounds
    have refuses : v.toNat ≠ 1 ∨ (atFaultClear s).health.supervisorOnly = true :=
      grounds.imp_left fun other one => other (BitVec.eq_of_toNat_eq one)
    rw [commitFaultClear_refused refuses]
    rfl

/-! ### PEEK-CLEAR (R166) -/

theorem installPair_onlyLink (s : State) : installPair s = { s with link := (installPair s).link } := by
  unfold installPair
  split <;> rfl

theorem installPair_error (s : State) : (installPair s).link.error = s.link.error := by
  unfold installPair
  split <;> rfl

/-- R163, R167: what a valid frame alone makes of an awake part's link before its commit: LINK ERROR is clear and SLEEP
REQUEST stands. -/
theorem linkFrame_commits {op : LinkOp} {f : FrameBits} {s : State} (alone : Alone f s)
    (valid : frameValid op f = true) (awake : s.power.state ≠ .sleep) :
    ∃ l : Link, l.error = false ∧ l.sleepReq = s.link.sleepReq ∧
      linkFrame (frameSent op f) f s = commitFrame op f.item f.value { s with link := l } := by
  have frame := linkFrame_alone op f s alone
  rw [clockFrame_selectFrame] at frame
  simp only [valid, awake, Bool.not_true, Bool.false_eq_true, if_false] at frame
  rw [installPair_onlyLink] at frame
  refine ⟨_, ?error, ?request, frame⟩
  case error => rw [installPair_error]; rfl
  case request =>
    obtain ⟨-, request, -, -⟩ := installPair_link (clearLinkError _)
    exact request

theorem commitClear_powerOn (s : State) :
    commitClear 1 s = { s with health := { s.health with powerOnFlag := false } } := rfl

theorem commitClear_faults (s : State) : commitClear 3 s = clearAction s := rfl

/-- R166: the other items have no clear effect. -/
theorem commitClear_none {item : BitVec 5} (s : State) (h1 : item ≠ 1) (h3 : item ≠ 3) :
    commitClear item s = s := by
  unfold commitClear
  split
  next one => exact absurd (BitVec.eq_of_toNat_eq one) h1
  next three => exact absurd (BitVec.eq_of_toNat_eq three) h3
  next => rfl

theorem commitClear_link (item : BitVec 5) (s : State) : (commitClear item s).link = s.link := by
  unfold commitClear
  split
  · rfl
  · exact (clearAction_inner s).same.link
  · rfl

/-- Settles O54, by the item. -/
theorem peekClearClears : Obligations.PeekClearClears := by
  unfold Obligations.PeekClearClears
  intro f s sound awake alone valid
  obtain ⟨l, error, request, commits⟩ := linkFrame_commits alone valid awake
  have link : (commitClear f.item { s with link := l }).link = l := commitClear_link _ _
  refine ⟨commitClear f.item { s with link := l }, congrArg _ commits, ?_⟩
  rw [link]
  refine ⟨error, request, fun powerOn => ?_, fun faults => ?_, fun notPowerOn notFaults => ?_⟩
  · rw [powerOn, commitClear_powerOn]
  · rw [faults, commitClear_faults, clearAction_of_sound (sound.setLink l)]
    exact ⟨rfl, rfl⟩
  · exact commitClear_none _ notPowerOn notFaults

end Sys2Proof.Machine
end

section
/-! SUPPORT. The answers of the Maintenance Link (R160 to R162, R167): what a whole frame shifts out, the pair capture that
its deselect installs, and the statement about PEEK and PING. -/

namespace Sys2Proof.Machine

/-! ### What byte 0 of a frame calls for (R161, R167) -/

theorem byteSnapshot_reads {b : Byte} {s : State} (awake : s.power.state ≠ .sleep) (reads : opReads (byteOp b) = true) :
    byteSnapshot b s = (linkItem s (byteItem b)).getD 0 := by
  simp [byteSnapshot, awake, reads]

theorem byteSnapshot_unread {b : Byte} (s : State) (unread : opReads (byteOp b) = false) : byteSnapshot b s = 0 := by
  simp [byteSnapshot, unread]

theorem bytePair_tick {b : Byte} (s : State) (reads : opReads (byteOp b) = true) (item : byteItem b = 8) :
    bytePair b s = some (.tick s.motion.tick) := by
  simp [bytePair, reads, item]

theorem bytePair_block {b : Byte} (s : State) (reads : opReads (byteOp b) = true) (item : byteItem b = 10) :
    bytePair b s = some (.block (logicalBlock s) (shownPart s) s.place.position.isSome) := by
  simp [bytePair, reads, item]

/-- R167: only the low item of a pair captures it. -/
theorem bytePair_otherItem {b : Byte} (s : State) (notTick : byteItem b ≠ 8) (notBlock : byteItem b ≠ 10) :
    bytePair b s = none := by
  unfold bytePair
  split
  next => rfl
  next =>
    split
    next tick => exact absurd (BitVec.eq_of_toNat_eq tick) notTick
    next block => exact absurd (BitVec.eq_of_toNat_eq block) notBlock
    next => rfl

theorem bytePair_unread {b : Byte} (s : State) (unread : opReads (byteOp b) = false) : bytePair b s = none := by
  simp [bytePair, unread]

/-! ### The capture installed (R167) -/

/-- The TICK pair snapshot after a capture is installed. -/
def tickPairAfter : Option PairCapture → Option TickWord → Option TickWord
  | some (.tick v), _ => some v
  | _, kept => kept

/-- The BLOCK pair snapshot after a capture is installed. -/
def blockPairAfter : Option PairCapture → Option BlockPair → Option BlockPair
  | some (.block n p k), _ => some { next := n, part := p, known := k }
  | _, kept => kept

theorem installPair_tickPair (s : State) :
    (installPair s).link.tickPair = tickPairAfter s.link.frame.pair s.link.tickPair := by
  rcases capture : s.link.frame.pair with _ | _ | _ <;> rw [installPair, capture] <;> rfl

theorem installPair_blockPair (s : State) :
    (installPair s).link.blockPair = blockPairAfter s.link.frame.pair s.link.blockPair := by
  rcases capture : s.link.frame.pair with _ | _ | _ <;> rw [installPair, capture] <;> rfl

theorem installPair_errorCount (s : State) : (installPair s).link.errorCount = s.link.errorCount := by
  unfold installPair
  split <;> rfl

/-- R161, R167: the bits shifted out are none of the pair's. -/
theorem installPair_response (s : State) : linkResponse (installPair s).link = linkResponse s.link := by
  unfold installPair
  split <;> rfl

/-! ### A valid frame alone -/

/-- R159 to R163: the part as a valid frame alone leaves it before the capture is installed and the commit made: the frame's
24 bits taken, its answer shifted out, LINK ERROR clear. -/
def answered (op : LinkOp) (f : FrameBits) (s : State) : State :=
  { s with link := { s.link with
      error := false
      frame := {
        selected := false, shiftIn := frameBits op f, edges := 24, clock := f.clock, summary := healthSummary s
        snapshot := byteSnapshot (regByte0 (frameBits op f)) s, pair := bytePair (regByte0 (frameBits op f)) s } } }

theorem edges_of_frameValid {op : LinkOp} {f : FrameBits} (valid : frameValid op f = true) : f.edges = 24 := by
  simp only [frameValid_eq, Bool.and_eq_true, decide_eq_true_eq] at valid
  obtain ⟨⟨edges, -⟩, -⟩ := valid
  exact edges

theorem linkFrame_answered {op : LinkOp} {f : FrameBits} {s : State} (alone : Alone f s)
    (valid : frameValid op f = true) (awake : s.power.state ≠ .sleep) :
    linkFrame (frameSent op f) f s = commitFrame op f.item f.value (installPair (answered op f s)) := by
  have frame := linkFrame_alone op f s alone
  rw [clockFrame_selectFrame] at frame
  simp only [valid, awake, Bool.not_true, Bool.false_eq_true, if_false, edges_of_frameValid valid] at frame
  rw [frame]
  simp [answered, clearLinkError, onFrame, frameSent, shiftBits_whole]

/-- R161 to R163, R167: what the installed capture of a valid frame leaves, whatever its operation: the answer is the summary
and the snapshot, and nothing outside the link changes. -/
theorem installPair_answered (op : LinkOp) (f : FrameBits) (s : State) {value : BitVec 16} {pair : Option PairCapture}
    (snapshot : byteSnapshot (regByte0 (frameBits op f)) s = value)
    (capture : bytePair (regByte0 (frameBits op f)) s = pair) :
    ∃ l : Link, installPair (answered op f s) = { s with link := l } ∧
      linkResponse l = healthSummary s ++ value.extractLsb' 0 8 ++ value.extractLsb' 8 8 ∧ l.error = false ∧
      l.errorCount = s.link.errorCount ∧ l.sleepReq = s.link.sleepReq ∧
      l.tickPair = tickPairAfter pair s.link.tickPair ∧ l.blockPair = blockPairAfter pair s.link.blockPair := by
  subst snapshot capture
  obtain ⟨-, request, -, -⟩ := installPair_link (answered op f s)
  exact ⟨_, installPair_onlyLink _, installPair_response _, installPair_error _, installPair_errorCount _, request,
    installPair_tickPair _, installPair_blockPair _⟩

/-! ### PEEK and PING -/

/-- R161, R167: a PEEK of item 8 captures the TICK pair, one of item 10 the BLOCK pair. -/
theorem pairsAfter_peek (f : FrameBits) (s : State) :
    tickPairAfter (bytePair (regByte0 (frameBits .peek f)) s) s.link.tickPair =
        (if f.item = 8 then some s.motion.tick else s.link.tickPair) ∧
      blockPairAfter (bytePair (regByte0 (frameBits .peek f)) s) s.link.blockPair =
        (if f.item = 10 then some { next := logicalBlock s, part := shownPart s, known := s.place.position.isSome }
          else s.link.blockPair) := by
  have reads : opReads (byteOp (regByte0 (frameBits .peek f))) = true := by rw [byteOp_frameBits]; rfl
  have item := byteItem_frameBits .peek f
  by_cases tick : f.item = 8
  · rw [bytePair_tick s reads (item.trans tick), tick]
    exact ⟨rfl, rfl⟩
  by_cases block : f.item = 10
  · rw [bytePair_block s reads (item.trans block), block]
    exact ⟨rfl, rfl⟩
  · rw [bytePair_otherItem s (item.symm ▸ tick) (item.symm ▸ block), if_neg tick, if_neg block]
    exact ⟨rfl, rfl⟩

/-- Settles O52, by the operation. -/
theorem peekAnswers : Obligations.PeekAnswers := by
  unfold Obligations.PeekAnswers
  intro f v s awake alone
  refine ⟨fun valid assigned => ?peek, fun valid => ?ping⟩
  case peek =>
    have snapshot : byteSnapshot (regByte0 (frameBits .peek f)) s = v := by
      rw [byteSnapshot_reads awake (by rw [byteOp_frameBits]; rfl), byteItem_frameBits, assigned]
      rfl
    obtain ⟨l, leaves, answer, error, count, request, tick, block⟩ := installPair_answered .peek f s snapshot rfl
    obtain ⟨tickAfter, blockAfter⟩ := pairsAfter_peek f s
    exact ⟨{ s with link := l }, congrArg _ ((linkFrame_answered alone valid awake).trans leaves), rfl, answer, error,
      count, request, tick.trans tickAfter, block.trans blockAfter⟩
  case ping =>
    have unread : opReads (byteOp (regByte0 (frameBits .ping f))) = false := by rw [byteOp_frameBits]; rfl
    obtain ⟨l, leaves, answer, error, count, request, tick, block⟩ :=
      installPair_answered .ping f s (byteSnapshot_unread s unread) (bytePair_unread s unread)
    exact ⟨{ s with link := l }, congrArg _ ((linkFrame_answered alone valid awake).trans leaves), rfl, answer, error,
      count, request, tick, block⟩

end Sys2Proof.Machine
end

section
/-! SUPPORT. What RST/ holds while it is low (R180; log 25): the levels, the faults and the cartridge change around it, and no
act but the commands of RST/ itself and a power-on reset moves RST/. -/

namespace Sys2Proof.Machine

/-! ### A part under RST/ -/

/-- R180: what the assertion of RST/ left, with RST/ still low. -/
structure Held (s : State) : Prop where
  low : s.inputs.rstLow = true
  seq : s.seq = .afterReset
  banks : s.banks = .afterReset
  enables : s.host.intEnable = 0
  active : s.power.state = .active
  events : s.events = []
  writer : s.framer.writer = .idle
  gate : s.framer.gate = false
  capture : s.framer.capture = none
  field : s.framer.field = none
  rest : s.motion.state = .stopped ∨ s.motion.state = .inhibited
  request : s.motion.request = none
  settling : s.motion.settling = false

theorem heldInReset_iff (s : State) : HeldInReset s ↔ (s.inputs.rstLow = true → Held s) := by
  refine forall_congr' fun low => ⟨?_, fun h => ?_⟩
  · rintro ⟨seq, banks, enables, active, events, ⟨writer, gate, capture, field⟩, rest, request, settling⟩
    exact ⟨low, seq, banks, enables, active, events, writer, gate, capture, field, rest, request, settling⟩
  · exact ⟨h.seq, h.banks, h.enables, h.active, h.events, ⟨h.writer, h.gate, h.capture, h.field⟩, h.rest, h.request,
      h.settling⟩

section

variable {s : State} (h : Held s)

include h

theorem Held.idle : s.seq.active = none := congrArg Sequencer.active h.seq

theorem Held.unqueued : s.seq.queue = [] := congrArg Sequencer.queue h.seq

theorem Held.still : s.motion.moving = false := by
  rcases h.rest with k | k <;> simp [Motion.moving, k]

/-- R5: the Host Port is inactive while RST/ is low. -/
theorem Held.port : portActive s = false := (portActive_false s).2 (.inl h.low)

/-- R180: nothing follows from an act while RST/ is low. -/
theorem Held.steady : Steady s := by
  refine ⟨h.events, by simp [h.active], ?_⟩
  rw [h.idle]
  exact h.unqueued

theorem Held.settle : settle s = s := settle_steady h.steady

end

/-! ### Acts that keep it -/

/-- R180: an act that leaves RST/ at its level, and what RST/ holds where it is low. -/
structure Holds (s t : State) : Prop where
  rst : t.inputs.rstLow = s.inputs.rstLow
  held : Held s → Held t

theorem Holds.refl (s : State) : Holds s s := ⟨rfl, id⟩

/-- Acts in a row, the last first. -/
theorem Holds.after {s t u : State} (k : Holds t u) (h : Holds s t) : Holds s u :=
  ⟨k.rst.trans h.rst, fun hs => k.held (h.held hs)⟩

/-- An act that is never made while RST/ is low. -/
theorem holds_of_unheld {s t : State} (unheld : ¬ Held s) (rst : t.inputs.rstLow = s.inputs.rstLow) : Holds s t :=
  ⟨rst, fun h => absurd h unheld⟩

theorem Inner.rst {s t : State} (k : Inner s t) : t.inputs.rstLow = s.inputs.rstLow :=
  congrArg Inputs.rstLow k.same.inputs

theorem Inner.holds {s t : State} (k : Inner s t) (held : Held s → Held t) : Holds s t := ⟨k.rst, held⟩

/-- An act inside a command that does nothing while RST/ is low. -/
theorem Inner.holds_of_id {s t : State} (k : Inner s t) (nothing : Held s → t = s) : Holds s t :=
  k.holds fun h => (nothing h).symm ▸ h

theorem settle_holds (s : State) : Holds s (settle s) := (settle_inner s).holds_of_id Held.settle

theorem Holds.settled {s t : State} (h : Holds s t) : Holds s (settle t) := (settle_holds t).after h

theorem holds_host (s : State) {x : HostPort} (enables : x.intEnable = s.host.intEnable) :
    Holds s { s with host := x } := ⟨rfl, fun h => { h with enables := enables.trans h.enables }⟩

theorem holds_inputs (s : State) {x : Inputs} (rst : x.rstLow = s.inputs.rstLow) : Holds s { s with inputs := x } :=
  ⟨rst, fun h => { h with low := rst.trans h.low }⟩

theorem holds_reports (s : State) (q : Reports) : Holds s { s with reports := q } := ⟨rfl, fun h => { h with }⟩

theorem holds_place (s : State) (p : Place) : Holds s { s with place := p } := ⟨rfl, fun h => { h with }⟩

theorem holds_health (s : State) (x : Health) : Holds s { s with health := x } := ⟨rfl, fun h => { h with }⟩

theorem holds_link (s : State) (l : Link) : Holds s { s with link := l } := ⟨rfl, fun h => { h with }⟩

/-! ### Faults (R147 to R152) -/

/-- R84, R85, R151: while RST/ is low the faults only inhibit the transport at rest, or release it. -/
theorem inhibitController_holds (s : State) : Holds s (inhibitController s) := by
  refine (inhibitController_inner s).holds fun h => ?_
  unfold inhibitController
  split
  · split
    · exact h
    · rw [hold_rest_eq h.still, holdMotion_rest h.still h.request]
      exact { h with
        active := by simp [handOver, h.active]
        events := by simp [handOver, h.events]
        rest := .inr rfl
        settling := rfl }
  · have rest : (liftInhibit s.motion).state = .stopped ∨ (liftInhibit s.motion).state = .inhibited := by
      unfold liftInhibit
      split
      · exact .inl rfl
      · exact h.rest
    have kept : (liftInhibit s.motion).request = s.motion.request ∧
        (liftInhibit s.motion).settling = s.motion.settling := by
      unfold liftInhibit
      split <;> exact ⟨rfl, rfl⟩
    exact { h with
      rest := rest
      request := kept.1.trans h.request
      settling := kept.2.trans h.settling }

theorem faultBits_holds (s : State) : Holds s (faultBits s) := holds_health s _

theorem applyInhibits_holds (s : State) : Holds s (applyInhibits s) := by
  refine (applyInhibits_inner s).holds fun h => ?_
  rw [applyInhibits_idle h.idle h.gate]
  exact (inhibitController_holds s).held h

theorem onsetReports_holds (new : BitVec 6) (s : State) : Holds s (onsetReports new s) := by
  rw [onset_eq]
  exact holds_reports s _

theorem judgeAfter_holds {first : State → State} (hf : ∀ u, Holds u (first u)) (s : State) :
    Holds s (judgeAfter first s) := by
  have judged : Holds s (first (applyInhibits (faultBits s))) :=
    (hf _).after ((applyInhibits_holds _).after (faultBits_holds s))
  unfold judgeAfter
  dsimp only
  split
  · exact judged
  · exact (onsetReports_holds _ _).after judged

theorem judge_holds (s : State) : Holds s (judge s) := judgeAfter_holds .refl s

theorem clearAction_holds (s : State) : Holds s (clearAction s) := (inhibitController_holds _).after (holds_health s _)

theorem interrupt_holds (s : State) : Holds s (interrupt s) :=
  (interrupt_inner s).holds_of_id fun h => by simp [interrupt, h.idle]

theorem stopActs_holds (s : State) : Holds s (stopActs s) :=
  (stopActs_inner s).holds_of_id fun h => by simp [stopActs, cutShort, h.still, h.idle]

/-! ### The cartridge (R94, R96) -/

theorem loseCartridge_holds (s : State) : Holds s (loseCartridge s) := ⟨rfl, fun h => { h with }⟩

theorem removeCartridge_holds (act : State → State) (s : State) : Holds s (removeCartridge act s) := by
  refine (removeCartridge_inner act s).holds fun h => ?_
  have still : (if s.motion.moving then hold false s else s) = s := if_neg (by simp [h.still])
  unfold removeCartridge
  rw [still, h.idle]
  split
  · exact (judge_holds s).held h
  · exact ((judgeAfter_holds (fun u => holds_reports u _) _).after (loseCartridge_holds s)).held h

theorem insertCartridge_holds (act : State → State) (s : State) : Holds s (insertCartridge act s) := by
  unfold insertCartridge
  split
  · dsimp only
    split
    · exact (judge_holds _).after (holds_place s _)
    · exact (judgeAfter_holds (fun u => holds_reports u _) _).after (holds_place s _)
  · exact judge_holds s

/-! ### Sleep, the wake and DEVICE RESET (R172 to R181) -/

theorem wakeUp_rst (s : State) : (wakeUp s).inputs.rstLow = s.inputs.rstLow :=
  (congrArg Inputs.rstLow (wakeChanges_woken s).same.2.2 :)

theorem wakeByLink_rst (s : State) : (wakeByLink s).inputs.rstLow = s.inputs.rstLow := by
  unfold wakeByLink
  split
  · rfl
  · exact wakeUp_rst s

/-- R171, R180: SLP/ has no effect while RST/ is low. -/
theorem followSlp_holds (s : State) : Holds s (followSlp s) := by
  unfold followSlp
  split
  · exact .refl s
  · rename_i high
    refine holds_of_unheld (fun h => high h.low) ?_
    split
    · split
      · rfl
      · exact (forcedSleep_inner s).rst
    · split
      · exact wakeUp_rst s
      · rfl

theorem linkSourceSet_holds (s : State) : Holds s (linkSourceSet s) :=
  (linkSourceSet_inner s).holds_of_id fun h => if_pos h.low

theorem linkSourceClear_holds (s : State) : Holds s (linkSourceClear s) :=
  (linkSourceClear_inner s).holds_of_id fun h => by simp [linkSourceClear, h.active]

theorem deviceResetActs_rst (s : State) : (deviceResetActs s).inputs.rstLow = s.inputs.rstLow := by
  obtain ⟨st, r, started, reseated, -, imposed⟩ := deviceResetActs_spec s
  obtain ⟨-, -, -, inputs, -⟩ := imposed.same
  rw [inputs, reseated.inputs, ← started.same.2.2]
  rfl

theorem deviceReset_rst (s : State) : (deviceReset s).inputs.rstLow = s.inputs.rstLow :=
  ((judgeSources_inner _).after (resetReport_inner _ _)).rst.trans (deviceResetActs_rst s)

/-! ### The host's accesses, which an inactive port ignores (R5) -/

theorem dataPortRead_inputs (s : State) : (dataPortRead s).inputs = s.inputs := by
  unfold dataPortRead
  split
  · rfl
  · exact (settle_inner _).same.inputs

theorem dataPortWrite_inputs (v : Byte) (s : State) : (dataPortWrite v s).inputs = s.inputs := by
  unfold dataPortWrite
  split
  · rfl
  · split
    · rfl
    · exact (settle_inner _).same.inputs

theorem stageParam_inputs (v : Byte) (s : State) : (stageParam v s).inputs = s.inputs := by
  unfold stageParam
  split <;> rfl

theorem ackReport_inputs (s : State) : (ackReport s).inputs = s.inputs := (settle_inner _).same.inputs

theorem reportControl_inputs (v : Byte) (s : State) : (reportControl v s).inputs = s.inputs := by
  unfold reportControl
  split
  · exact ackReport_inputs s
  · split <;> rfl

theorem setupRead_inputs (s : State) : (setupRead s).inputs = s.inputs := by
  unfold setupRead
  split
  · rfl
  · unfold readItem
    dsimp only
    split
    · split <;> rfl
    · rfl

theorem commitValue_inputs (r : ItemRow) (v : Nat) (s : State) : (commitValue r v s).inputs = s.inputs := by
  unfold commitValue
  split
  · unfold commitItem
    split
    · exact (retime_inner _ _).same.inputs
    · rfl
  · unfold commitFaultClear
    split
    · exact (clearAction_inner s).same.inputs
    · rfl
  · unfold commitEntry
    split <;> rfl
  · rfl

theorem setupWrite_inputs (v : Byte) (s : State) : (setupWrite v s).inputs = s.inputs := by
  unfold setupWrite
  split
  · rfl
  · rename_i r _
    show (writeItem r v s).inputs = s.inputs
    unfold writeItem
    split
    · rfl
    · split
      · rfl
      · exact commitValue_inputs r _ _

theorem windowRead_inputs (addr : BitVec 3) (s : State) : (windowRead addr s).inputs = s.inputs := by
  unfold windowRead
  split
  · exact dataPortRead_inputs s
  · rfl
  · rfl
  · rfl
  · rfl
  · rfl
  · rfl
  · exact setupRead_inputs s

theorem orderByte_rst (code : Byte) (s : State) : (orderByte code s).inputs.rstLow = s.inputs.rstLow := by
  unfold orderByte
  split
  · exact (haltOrder_inner s).rst
  · split
    · exact (emergencyStop_inner s).rst
    · split
      · exact deviceReset_rst s
      · unfold offerOrder
        split
        · exact (settle_inner (acceptOrder code s)).rst
        · rfl

theorem windowWrite_rst (addr : BitVec 3) (v : Byte) (s : State) :
    (windowWrite addr v s).inputs.rstLow = s.inputs.rstLow := by
  unfold windowWrite
  split
  · rw [dataPortWrite_inputs]
  · exact orderByte_rst v s
  · rw [stageParam_inputs]
  · rw [reportControl_inputs]
  · rfl
  · rfl
  · rfl
  · rw [setupWrite_inputs]

theorem csRead_holds {act : State → State} {s : State} (rst : (act s).inputs.rstLow = s.inputs.rstLow) :
    Holds s (csRead act s) := by
  unfold csRead
  split
  · rename_i port
    exact holds_of_unheld (fun h => by simp [h.port] at port) rst
  · exact holds_host s rfl

theorem csWrite_holds {act : State → State} {s : State} (rst : (act s).inputs.rstLow = s.inputs.rstLow) :
    Holds s (csWrite act s) := by
  unfold csWrite
  split
  · rename_i port
    exact holds_of_unheld (fun h => by simp [h.port] at port) rst
  · exact .refl s

theorem dataAccess_holds {act cs : State → State} {s : State} (hc : Holds s (cs s))
    (rst : (act s).inputs.rstLow = s.inputs.rstLow) (via : BusPath) : Holds s (dataAccess via cs act s) := by
  cases via with
  | cs => exact hc
  | dack =>
    show Holds s (if _ then act s else s)
    split
    · rename_i reached
      exact holds_of_unheld (fun h => by simp [h.port] at reached) rst
    · exact .refl s

theorem hostAccess_holds (access : HostAccess) (s : State) : Holds s (hostAccess access s) := by
  cases access with
  | read addr => exact csRead_holds (congrArg Inputs.rstLow (windowRead_inputs addr s))
  | write addr v => exact csWrite_holds (windowWrite_rst addr v s)

theorem conflictAccess_holds (access : HostAccess) (s : State) : Holds s (conflictAccess access s) := by
  cases access <;> exact holds_host s rfl

/-! ### The commit of a frame (R148, R155, R156, R163 to R169) -/

theorem lockoutSet_holds (s : State) : Holds s (lockoutSet s) := by
  unfold lockoutSet
  split
  · rename_i a serving
    refine holds_of_unheld (fun h => by simp [h.idle] at serving) ?_
    unfold lockReaches
    split
    · rfl
    · exact ((settle_inner _).after ((interrupt_inner _).after (onActive_inner _ s))).rst
  · split
    · exact .refl s
    · exact holds_reports s _

theorem lockoutCleared_holds (s : State) : Holds s (lockoutCleared s) := by
  unfold lockoutCleared
  split
  · exact .refl s
  · exact holds_reports s _

theorem commitControl_holds (v : BitVec 16) (s : State) : Holds s (commitControl v s) := by
  unfold commitControl
  dsimp only
  split
  · exact (lockoutSet_holds _).after (holds_health s _)
  · split
    · exact (lockoutCleared_holds _).after (holds_health s _)
    · exact holds_health s _

theorem commitSleepRequest_holds (v : BitVec 16) (s : State) : Holds s (commitSleepRequest v s) := by
  unfold commitSleepRequest
  dsimp only
  split
  · exact (linkSourceSet_holds _).after (holds_link s _)
  · split
    · exact (linkSourceClear_holds _).after (holds_link s _)
    · exact holds_link s _

theorem commitPoke_holds (item : BitVec 5) (v : BitVec 16) (s : State) : Holds s (commitPoke item v s) := by
  unfold commitPoke
  split
  · exact ((judge_holds _).after (holds_health s _)).settled
  · exact commitControl_holds v s
  · exact commitSleepRequest_holds v s
  · exact .refl s

theorem commitClear_holds (item : BitVec 5) (s : State) : Holds s (commitClear item s) := by
  unfold commitClear
  split
  · exact holds_health s _
  · exact clearAction_holds s
  · exact .refl s

theorem commitFrame_holds (op : LinkOp) (item : BitVec 5) (v : BitVec 16) (s : State) :
    Holds s (commitFrame op item v s) := by
  unfold commitFrame
  split
  · exact commitPoke_holds item v s
  · exact commitClear_holds item s
  · exact .refl s

theorem commitAsleep_rst (op : LinkOp) (item : BitVec 5) (v : BitVec 16) (s : State) :
    (commitAsleep op item v s).inputs.rstLow = s.inputs.rstLow := by
  unfold commitAsleep
  split
  · exact wakeByLink_rst _
  · rfl

theorem judgeFrame_holds (s : State) : Holds s (judgeFrame s) := by
  unfold judgeFrame
  dsimp only
  split
  · exact holds_link s _
  · split
    · rename_i asleep
      exact holds_of_unheld (fun h => by simp [h.active] at asleep) (commitAsleep_rst _ _ _ _)
    · have installed : Holds s (installPair (clearLinkError s)) := by
        rw [installPair_onlyLink]
        exact (holds_link _ _).after (holds_link s _)
      exact (commitFrame_holds _ _ _ _).after installed

theorem commitAt_holds (deselect : Bool) (s : State) : Holds s (commitAt deselect s) := by
  unfold commitAt
  split
  · exact judgeFrame_holds s
  · exact .refl s

end Sys2Proof.Machine
end

section
/-! SUPPORT. One instant (R53, R168), the frames of the link, every command and the millisecond under RST/ (R180; log 25), and
the statement about them. -/

namespace Sys2Proof.Machine

/-! ### The event (R53) -/

theorem setMarkers_holds (bots eots : Bool) (s : State) : Holds s (setMarkers bots eots s) := holds_inputs s rfl

theorem stepCapstan_rst (header : Option (BitVec 64)) (bots eots : Bool) (s : State) :
    (stepCapstan header (setMarkers bots eots s)).inputs.rstLow = s.inputs.rstLow := rfl

theorem settleAroundFor_rst {act : State → State} (ha : ∀ u, (act u).inputs.rstLow = u.inputs.rstLow) (n : Nat)
    (s : State) : (settleAroundFor act n s).inputs.rstLow = s.inputs.rstLow := by
  induction n generalizing s with
  | zero => exact (settleFor_inner 0 _).rst.trans (ha s)
  | succ n ih =>
    unfold settleAroundFor
    split
    · exact (settleFor_inner _ _).rst.trans (ha s)
    · split
      · exact (settleFor_inner _ _).rst.trans (ha { s with events := [] })
      · exact (ih _).trans (onEvent_inner _ _).rst

/-- A level on a pin does not move RST/. -/
theorem healthLevel_rst (input : HealthInput) (v : Bool) (s : State) :
    (healthLevel input v s).rstLow = s.inputs.rstLow := by
  cases input with
  | wrflt =>
    unfold healthLevel
    dsimp only
    split <;> rfl
  | drvflt | tensok | tempw | supok => rfl

theorem healthPin_rst (input : HealthInput) (v : Bool) (x : Inputs) : (healthPin input v x).rstLow = x.rstLow := by
  cases input <;> rfl

theorem wprotChange_holds (how : Change) (v : Bool) (s : State) : Holds s (wprotChange how v s) := by
  unfold wprotChange
  split <;> exact holds_inputs s rfl

section

variable {act : State → State} (ha : ∀ u, Holds u (act u))

include ha

theorem beforeRest_holds (s : State) : Holds s (beforeRest act s) := by
  have acted := ha { s with events := [] }
  refine ⟨acted.rst, fun h => ?_⟩
  have k := acted.held { h with events := rfl }
  have none : s.events ++ (act { s with events := [] }).events = [] := by rw [h.events, k.events, List.append_nil]
  exact { k with events := none }

theorem cartinAround_holds (present : Bool) (s : State) : Holds s (cartinAround act present s) := by
  refine (beforeRest_holds ha _).after ?_
  split
  · exact insertCartridge_holds act s
  · exact removeCartridge_holds act s

theorem cartinChange_holds (how : Change) (v : Bool) (s : State) : Holds s (cartinChange act how v s) := by
  unfold cartinChange
  split
  · have taken : Holds s { s with inputs := { s.inputs with cartin := .settled v } } := holds_inputs s rfl
    exact ((cartinAround_holds ha v _).after taken).settled
  · exact (ha _).after (holds_inputs s rfl)

theorem inputAround_holds (how : Change) (line : LevelInput) (v : Bool) (s : State) :
    Holds s (inputAround act how line v s) := by
  cases line with
  | health input =>
    show Holds s (healthChange act how input v s)
    unfold healthChange
    split
    · exact ((beforeRest_holds ha _).after
        ((judge_holds _).after (holds_inputs s (healthLevel_rst input v s)))).settled
    · exact (ha _).after (holds_inputs s (healthPin_rst input v _))
  | wprot => exact (ha _).after (wprotChange_holds how v s)
  | cartin bots eots => exact (cartinChange_holds ha how v _).after (setMarkers_holds bots eots s)

/-- R180: no step is issued while RST/ is low. -/
theorem stepAround_holds (bots eots : Bool) (header : Option (BitVec 64)) (s : State) :
    Holds s (stepAround act bots eots header s) := by
  unfold stepAround
  split
  · rename_i moving
    exact holds_of_unheld (fun h => by simp [h.still] at moving)
      ((settleAroundFor_rst (fun u => (ha u).rst) _ _).trans (stepCapstan_rst header bots eots s))
  · exact ha s

theorem eventAround_holds (b : Beside) (s : State) : Holds s (eventAround b act s) := by
  cases b with
  | nothing => exact ha s
  | input line how high => exact inputAround_holds ha how line high s
  | step bots eots header => exact stepAround_holds ha bots eots header s

theorem eventCommits_holds (b : Beside) (deselect waits : Bool) (s : State) :
    Holds s (eventCommits b deselect waits act s) := by
  have lock : Holds s (lockArises b deselect s) :=
    (lockArises_inner b deselect s).holds_of_id fun h => by simp [lockArises, lockFalls, h.idle]
  have around := (eventAround_holds (act := fun u => commitAt deselect (act u))
    (fun u => (commitAt_holds deselect _).after (ha u)) b _).after lock
  unfold eventCommits
  dsimp only
  split
  · exact ((interrupt_holds _).after around).settled
  · exact around

end

/-- R53, R168: the event and the commit of an instant, with nothing else. -/
theorem eventAlone_holds (b : Beside) (deselect waits : Bool) (s : State) :
    Holds s (eventCommits b deselect waits id s) := eventCommits_holds .refl b deselect waits s

theorem bareStep_holds (bots eots : Bool) (s : State) : Holds s (bareStep bots eots s) := by
  unfold bareStep
  split
  · rename_i moving
    refine holds_of_unheld (fun h => by simp [h.still] at moving) ?_
    dsimp only
    split
    · exact (inhibitController_holds _).rst.trans
        ((congrArg Inputs.rstLow (latchStall_same _).inputs).trans (stepCapstan_rst none bots eots s))
    · rfl
  · exact .refl s

theorem bareInput_holds (how : Change) (line : LevelInput) (v : Bool) (s : State) : Holds s (bareInput how line v s) := by
  cases line with
  | health input =>
    unfold bareInput
    dsimp only
    split
    · exact (inhibitController_holds _).after
        ((faultBits_holds _).after (holds_inputs s (healthLevel_rst input v s)))
    · exact holds_inputs s (healthPin_rst input v _)
  | wprot => exact wprotChange_holds how v s
  | cartin bots eots => exact holds_inputs s rfl

theorem bareEvent_holds (b : Beside) (s : State) : Holds s (bareEvent b s) := by
  cases b with
  | nothing => exact .refl s
  | input line how high => exact bareInput_holds how line high s
  | step bots eots header => exact bareStep_holds bots eots s

/-! ### The host access and the immediate orders (R5, R38 to R40, R168) -/

theorem accessBeside_holds (access : HostAccess) (s : State) : Holds s (accessBeside access s) := by
  unfold accessBeside
  split
  · refine csRead_holds ?_
    unfold dataReadBeside
    split <;> rfl
  · refine csWrite_holds ?_
    unfold dataWriteBeside
    split <;> rfl
  · exact hostAccess_holds access s

theorem accessFirst_holds (access : HostAccess) (b : Beside) (deselect : Bool) (s : State) :
    Holds s (accessFirst access b deselect s) := by
  have reflagged (after : State → State) (kept : Nat) (u : State) : Holds u (reflag after kept u) := by
    unfold reflag
    split
    · exact holds_reports u _
    · exact .refl u
  unfold accessFirst
  dsimp only
  split
  · exact (reflagged _ _ _).after (hostAccess_holds access s)
  · exact hostAccess_holds access s

theorem accessAtInstant_holds (access : HostAccess) (b : Beside) (deselect : Bool) (s : State) :
    Holds s (accessAtInstant access b deselect s) := by
  unfold accessAtInstant
  split
  · exact (eventAlone_holds b deselect false _).after (accessFirst_holds access b deselect s)
  · exact eventCommits_holds (accessBeside_holds access) b deselect false s
  · exact (hostAccess_holds access _).after (eventAlone_holds b deselect false s)

theorem idleStopAtInstant_rst (c : Cause) (code : Byte) (b : Beside) (deselect : Bool) (s : State) :
    (idleStopAtInstant c code b deselect s).inputs.rstLow = s.inputs.rstLow :=
  (eventAlone_holds b deselect false _).rst.trans (idleStopBefore_inner _ c code s).rst

theorem haltAtInstant_rst (b : Beside) (deselect : Bool) (s : State) :
    (haltAtInstant b deselect s).inputs.rstLow = s.inputs.rstLow := by
  unfold haltAtInstant
  split
  · exact idleStopAtInstant_rst _ _ b deselect s
  · split
    · exact (eventAlone_holds b deselect false s).rst
    · exact (eventAlone_holds b deselect true { s with seq := { s.seq with haltPending := true } }).rst

theorem emergencyAtInstant_rst (b : Beside) (deselect : Bool) (s : State) :
    (emergencyAtInstant b deselect s).inputs.rstLow = s.inputs.rstLow := by
  unfold emergencyAtInstant
  split
  · exact idleStopAtInstant_rst _ _ b deselect s
  · exact (eventCommits_holds stopActs_holds b deselect false s).settled.rst

theorem resetAtInstant_rst (b : Beside) (deselect : Bool) (s : State) :
    (resetAtInstant b deselect s).inputs.rstLow = s.inputs.rstLow := by
  let u : State := resetReportBefore (commitAt deselect) .deviceReset (deviceResetActs (bareEvent b s))
  have reset : u.inputs.rstLow = s.inputs.rstLow :=
    (resetReportBefore_inner _ _ _).rst.trans ((deviceResetActs_rst _).trans (bareEvent_holds b s).rst)
  have committed : (commitAt deselect u).inputs.rstLow = s.inputs.rstLow := (commitAt_holds deselect u).rst.trans reset
  exact (judgeSources_inner { commitAt deselect u with reports := u.reports }).rst.trans committed

theorem immediateAtInstant_rst (code : Byte) (b : Beside) (deselect : Bool) (s : State) :
    (immediateAtInstant code b deselect s).inputs.rstLow = s.inputs.rstLow := by
  unfold immediateAtInstant
  split
  · exact haltAtInstant_rst b deselect s
  · split
    · exact emergencyAtInstant_rst b deselect s
    · exact resetAtInstant_rst b deselect s

/-! ### One instant, and the frames of the link (R53, R159, R163) -/

theorem instantWith_holds (host : Option HostAccess) (b : Beside) (deselect : Bool) (s : State) :
    Holds s (instantWith host b deselect s) := by
  unfold instantWith
  split
  · exact eventAlone_holds b deselect false s
  · split
    · rename_i code reached
      exact holds_of_unheld (fun h => by simp [h.port] at reached) (immediateAtInstant_rst code b deselect s)
    · exact accessAtInstant_holds _ b deselect s
  · exact accessAtInstant_holds _ b deselect s

theorem instant_holds (host : Option HostAccess) (b : Beside) (deselect : Bool) (s : State) :
    Holds s (instant host b deselect s) := by
  unfold instant
  split
  · exact instantWith_holds host b deselect s
  · split
    · exact (bareEvent_holds b _).after (instantWith_holds host _ deselect s)
    · exact (instantWith_holds host _ deselect _).after (bareEvent_holds b s)

theorem deselectFrame_holds (host : Option HostAccess) (b : Beside) (s : State) : Holds s (deselectFrame host b s) :=
  (instant_holds host b true _).after (holds_link s _)

theorem clockFrame_holds (w : Sent) (n : Nat) (high : Bool) (s : State) : Holds s (clockFrame w n high s) := by
  unfold clockFrame clockEdges
  split <;> exact holds_link s _

theorem openFrame_holds (w : Sent) (n : Nat) (high : Bool) (s : State) : Holds s (openFrame w n high s) := by
  refine (clockFrame_holds w n high _).after ((holds_link _ _).after
    (t := if s.link.frame.selected then deselectFrame none .nothing s else s) ?_)
  split
  · exact deselectFrame_holds _ _ s
  · exact .refl s

theorem closeFrame_holds (w : Sent) (f : FrameBits) (s : State) : Holds s (closeFrame w f s) := by
  unfold closeFrame
  split
  · exact (deselectFrame_holds _ _ _).after (clockFrame_holds w _ _ s)
  · exact instant_holds f.host f.beside false s

theorem linkFrame_holds (w : Sent) (f : FrameBits) (s : State) : Holds s (linkFrame w f s) := by
  unfold linkFrame
  split
  · exact (closeFrame_holds w f _).after (openFrame_holds w _ _ s)
  · exact openFrame_holds w _ _ s
  · unfold continueFrame
    split
    · exact clockFrame_holds w _ _ s
    · exact .refl s
  · exact closeFrame_holds w f s

/-! ### The commands that leave RST/ alone -/

theorem Holds.next {s u t : State} (k : Holds s u) (h : (.next u : Host.Outcome State Fault Refusal) = .next t) :
    Holds s t := by
  injection h with h
  exact h ▸ k

/-- A command that acts under a condition, which never holds while RST/ is low, and does nothing otherwise. -/
theorem holds_guarded {p : Prop} [Decidable p] {s u t : State} (unheld : Held s → ¬ p) (k : p → Inner s u)
    (h : (if p then .next u else .next s : Host.Outcome State Fault Refusal) = .next t) : Holds s t := by
  split at h
  · rename_i hp
    exact (holds_of_unheld (fun held => unheld held hp) (k hp).rst).next h
  · exact (Holds.refl s).next h

theorem strobeConflict_holds {cs dack : Bool} {addr : BitVec 3} {s t : State}
    (h : exec (.strobeConflict cs dack addr) s = .next t) : Holds s t := by
  change execStrobeConflict cs dack addr s = .next t at h
  unfold execStrobeConflict at h
  split at h
  · exact (Holds.refl s).next h
  · split at h
    · exact Holds.next (u := setDataError (drive 0 s)) (holds_host s rfl) h
    · exact Holds.next (u := drive 0 s) (holds_host s rfl) h

theorem csDackConflict_holds {access : HostAccess} {s t : State} (h : exec (.csDackConflict access) s = .next t) :
    Holds s t := by
  change execCsDackConflict access s = .next t at h
  unfold execCsDackConflict at h
  split at h
  · exact (conflictAccess_holds access s).next h
  · exact (hostAccess_holds access s).next h

theorem headerEvent_holds {bits : BitVec 64} {s t : State} (h : exec (.headerEvent bits) s = .next t) : Holds s t := by
  change execHeaderEvent bits s = .next t at h
  unfold execHeaderEvent at h
  split at h
  · exact (Holds.refl s).next h
  · rename_i ended
    refine Holds.next (holds_of_unheld (fun held => ?_) ((settle_inner _).after (fieldRead_inner _ bits s)).rst) h
    simp [fieldEnds, held.field] at ended

theorem captureResult_holds {data : List Byte} {trailer : BitVec 32} {s t : State}
    (h : exec (.captureResult data trailer) s = .next t) : Holds s t := by
  change execCaptureResult data trailer s = .next t at h
  unfold execCaptureResult at h
  split at h
  · exact (Holds.refl s).next h
  · rename_i armed
    refine Holds.next (holds_of_unheld (fun held => ?_)
      ((settle_inner _).after (captureEnds_inner _ data trailer s)).rst) h
    simp [held.capture] at armed

/-- The commands that move RST/, or take it as high (log 33). -/
def movesRst : Instr → Bool
  | .powerOn _ => true
  | .rstAssertion => true
  | .rstRelease => true
  | _ => false

/-- R180: every other command leaves RST/ at its level, and what RST/ holds where it is low. -/
theorem exec_holds {i : Instr} {s t : State} (hi : movesRst i = false) (h : exec i s = .next t) : Holds s t := by
  have order {c : Byte} (hc : orderCode i = some c) : Holds s t := by
    rw [exec_order hc] at h
    exact (hostAccess_holds (.write 1 c) s).next h
  have setupWritten (index v : Byte) : (setupWrite v (setIndex index s)).inputs.rstLow = s.inputs.rstLow :=
    congrArg Inputs.rstLow (setupWrite_inputs v _)
  have setSlp_followed (high : Bool) : Holds s (followSlp (setSlp high s)) :=
    (followSlp_holds _).after (holds_inputs s rfl)
  cases i with
  | powerOn | rstAssertion | rstRelease => cases hi
  | dataRead via =>
    have rst := congrArg Inputs.rstLow (dataPortRead_inputs s)
    exact (dataAccess_holds (csRead_holds rst) rst via).next h
  | dataWrite via v =>
    have rst := congrArg Inputs.rstLow (dataPortWrite_inputs v s)
    exact (dataAccess_holds (csWrite_holds rst) rst via).next h
  | strobeConflict => exact strobeConflict_holds h
  | csDackConflict => exact csDackConflict_holds h
  | param v => exact (csWrite_holds (congrArg Inputs.rstLow (stageParam_inputs v s))).next h
  | reportRead => exact (csRead_holds (act := readReport) rfl).next h
  | acknowledge => exact (csWrite_holds (congrArg Inputs.rstLow (ackReport_inputs s))).next h
  | reportRewind => exact (csWrite_holds (act := rewindReport) rfl).next h
  | interruptEnable v => exact (csWrite_holds (act := setEnables v) rfl).next h
  | flagClear v => exact (csWrite_holds (act := clearFlags v) rfl).next h
  | registerWrite addr v => exact (hostAccess_holds (.write addr v) s).next h
  | setupDataRead => exact (csRead_holds (congrArg Inputs.rstLow (setupRead_inputs s))).next h
  | setupDataWrite v => exact (csWrite_holds (congrArg Inputs.rstLow (setupWrite_inputs v s))).next h
  | faultClear v => exact (csWrite_holds (act := fun t => setupWrite v (setIndex 0x44 t)) (setupWritten 0x44 v)).next h
  | mapEntryCommit v =>
    exact (csWrite_holds (act := fun t => setupWrite v (setIndex 0x69 t)) (setupWritten 0x69 v)).next h
  | mark | clearMap | load | unload | rewind | locate | moveRaw | spaceBlocks | spaceFences | seekEnd | readBlocks
  | verifyBlocks | writeBlocks | writeFences | eraseRemainder | unknownCode | halt | emergencyStop | deviceReset =>
    exact order rfl
  | orderDeparture =>
    exact holds_guarded (fun k => by simp [headReady, k.unqueued]) (fun _ => (settle_inner _).after (depart_inner s)) h
  | capstanStep input header => exact (instant_holds input.host _ false s).next h
  | dwellExpiry =>
    exact holds_guarded (fun k => by rcases k.rest with r | r <;> simp [r]) (fun _ => waitExpired_inner s) h
  | settleDelayExpiry => exact holds_guarded (fun k => by simp [k.settling]) (fun _ => waitExpired_inner s) h
  | tachPulse => exact ((clearStall_inner s).holds fun k => { k with }).next h
  | stall =>
    exact holds_guarded (fun k => by simp [k.still])
      (fun _ => (settle_inner _).after ((stallFault_inner _).after (clearStall_inner s))) h
  | seekExhausted =>
    exact holds_guarded (fun k => by simp [seekRunning, k.still])
      (fun runs => (settle_inner _).after (exhaustSeek_inner runs)) h
  | gapLimitReached =>
    exact ((gapReached_inner s).holds_of_id fun k => by simp [gapReached, k.idle]).next h
  | headerEvent => exact headerEvent_holds h
  | captureResult => exact captureResult_holds h
  | verifyVerdict good =>
    exact ((strobeVerdict_inner good s).holds_of_id fun k => by simp [strobeVerdict, k.writer]).next h
  | verdictWindowExpiry =>
    exact ((windowCloses_inner s).holds_of_id fun k => by simp [windowCloses, k.writer]).next h
  | endMarkComplete => exact ((endMarkEnds_inner s).holds_of_id fun k => by simp [endMarkEnds, k.writer]).next h
  | repositionResume =>
    exact holds_guarded (fun k => by simp [resumeDue, k.idle]) (fun _ => (settle_inner _).after (beginRun_inner s)) h
  | writeWaitEnd =>
    exact holds_guarded (fun k => by simp [writeWaitDue, k.idle]) (fun _ => (settle_inner _).after (beginRun_inner s)) h
  | cartridgeInserted bots eots =>
    exact ((cartinChange_holds .refl .level true _).after (setMarkers_holds bots eots s)).next h
  | cartridgeRemoved => exact (cartinChange_holds .refl .level false s).next h
  | healthInputChange input high => exact (instant_holds input.host _ false s).next h
  | peek f | poke f | peekClear f | ping f => exact (linkFrame_holds _ f s).next h
  | standby => exact holds_guarded (fun k => by simp [standbyCondition, k.low]) (fun _ => enterStandby_inner s) h
  | sleepDeadline => exact holds_guarded (fun k => by simp [k.active]) (fun _ => forcedSleep_inner s) h
  | forcedEntry => exact (setSlp_followed false).next h
  | wake => exact (setSlp_followed true).next h
  | hostPortActivation =>
    exact Holds.next (u := { s with power := { s.power with portWait := 0 } }) ⟨rfl, fun k => { k with }⟩ h
  | deferredEntry => exact holds_guarded (fun k => by simp [deferredDue, k.low]) (fun _ => enterSleep_inner s) h

/-! ### RST/ itself, and a power-on reset (R179, R180) -/

/-- R180, log 25: the assertion clears what RST/ holds. -/
theorem assertRst_held (s : State) : Held (assertRst s) := by
  have fresh := assertRst_fresh s
  have settling : (assertRst s).motion.settling = false := congrArg Motion.settling fresh.rested.symm
  have rest : (assertRst s).motion.state = .stopped ∨ (assertRst s).motion.state = .inhibited := by
    have still := fresh.still
    have rested := congrArg Motion.state fresh.rested
    unfold Motion.moving at still
    unfold cancelRequest at rested
    cases state : (assertRst s).motion.state with
    | stopped => exact .inl rfl
    | inhibited => exact .inr rfl
    | dwell => simp [state] at rested
    | accelerating | cruising | decelerating => simp [state] at still
  exact ⟨rfl, fresh.seq, fresh.banks, congrArg HostPort.intEnable fresh.host, rfl, fresh.events,
    congrArg Framer.writer fresh.framer, congrArg Framer.gate fresh.framer, congrArg Framer.capture fresh.framer,
    congrArg Framer.field fresh.framer, rest, fresh.request, settling⟩

theorem releaseRst_high (s : State) : (releaseRst s).inputs.rstLow = false := by
  have ended (u : State) : (endRelease u).inputs.rstLow = u.inputs.rstLow :=
    ((judgeSources_inner _).after ((resetReport_inner _ _).after (Inner.refl u).setPower)).rst
  rw [releaseRst_eq, ended]
  split
  · exact (releaseFromSleep_released rfl).same.2.2.1
  · refine (clearAction_holds _).rst.trans ?_
    exact (resetCartridge_inner _).rst

theorem powerOnReset_high (pins : Pins) (s : State) : (powerOnReset pins s).inputs.rstLow = false := by
  have reset : (resetReport .powerOn (inhibitController (faultBits (porState pins s)))).inputs.rstLow = false :=
    (inhibitController_holds _).rst
  unfold powerOnReset
  dsimp only
  split
  · exact (forcedSleep_inner _).rst.trans reset
  · exact reset

/-! ### All commands, and the millisecond -/

theorem Holds.heldInReset {s t : State} (k : Holds s t) (h : HeldInReset s) : HeldInReset t :=
  (heldInReset_iff t).2 fun low => k.held ((heldInReset_iff s).1 h (k.rst.symm.trans low))

/-- R180: with RST/ high nothing is held. -/
theorem heldInReset_of_high {s : State} (high : s.inputs.rstLow = false) : HeldInReset s := fun low => by
  simp [high] at low

theorem exec_heldInReset {i : Instr} {s t : State} (hs : HeldInReset s) (h : exec i s = .next t) : HeldInReset t := by
  cases hi : movesRst i with
  | false => exact (exec_holds hi h).heldInReset hs
  | true =>
    cases i with
    | powerOn pins =>
      injection h with h
      exact h ▸ heldInReset_of_high (powerOnReset_high pins s)
    | rstAssertion =>
      change execRstAssertion s = .next t at h
      unfold execRstAssertion at h
      split at h <;> injection h with h
      · exact h ▸ hs
      · exact h ▸ (heldInReset_iff _).2 fun _ => assertRst_held s
    | rstRelease =>
      change execRstRelease s = .next t at h
      unfold execRstRelease at h
      split at h <;> injection h with h
      · exact h ▸ heldInReset_of_high (releaseRst_high s)
      · exact h ▸ hs
    | _ => cases hi

theorem tickInputs_holds (s : State) : Holds s (tickInputs s) := by
  have sampled : Holds s (sampleInputs s) := holds_inputs s rfl
  refine (Holds.after ?_ sampled).settled
  unfold reactTo
  split
  · exact judge_holds _
  · exact cartinAround_holds .refl _ _

theorem awakeTick_holds (s : State) : Holds s (awakeTick s) := by
  have deadline : Holds s (tickDeadline s) :=
    (tickDeadline_inner s).holds_of_id fun h => tickDeadline_off (by simp [h.active])
  have timers (u : State) : Holds u (tickTimers u) := (tickTimers_inner u).holds_of_id fun h => if_pos (.inl h.low)
  unfold awakeTick
  dsimp only
  split
  · exact deadline
  · exact (timers _).after ((tickInputs_holds _).after deadline)

theorem msTick_holds (s : State) : Holds s (msTick s) := by
  have sampled : Holds s (sampleSlp s) := holds_inputs s rfl
  by_cases stands : SlpStands s
  · rw [msTick_stands stands]
    split
    · exact sampled
    · exact (awakeTick_holds _).after sampled
  · have followed : Holds s (followSlp (setSlp s.inputs.slp.pin s)) := (followSlp_holds _).after (holds_inputs s rfl)
    rw [msTick_follows stands]
    dsimp only
    split
    · exact followed
    · exact (awakeTick_holds _).after followed

/-- Settles O60: by the command at the front of the queue, or the millisecond where none waits. -/
theorem heldWhileRstLow : Obligations.HeldWhileRstLow := by
  unfold Obligations.HeldWhileRstLow
  intro s t hs h
  cases hp : s.pending with
  | nil =>
    rw [step_idle hp] at h
    exact ((msTick_holds s).next h).heldInReset hs
  | cons c rest =>
    rw [stepRunsFront c rest s hp] at h
    have waiting : HeldInReset { s with pending := rest } := hs
    exact exec_heldInReset waiting h

end Sys2Proof.Machine
end

section
/-! SUPPORT. The reports and the causes (R42 to R52): the Report Queue's operations, what a record's bytes tell, the rank
of causes, and the statements about them. -/

namespace Sys2Proof.Machine

/-! ### The Report Queue (R47 to R50) -/

theorem push_room {q : Reports} (r : Report) (h : q.stored.length < 6) : q.push r = { q with
    stored := q.stored ++ [r], lastCause := r.cause, lastTag := r.tag
    readIndex := if q.stored.isEmpty then 0 else q.readIndex } := if_pos h

theorem push_full {q : Reports} (r : Report) (h : 6 ≤ q.stored.length) : q.push r = { q with
    stored := markLost q.stored, overflow := bump q.overflow, lastCause := r.cause, lastTag := r.tag } :=
  if_neg (Nat.not_lt.2 h)

/-- R50: a counter of one byte. -/
theorem bump_byte (v : BitVec 8) : bump v = if v = 255 then 255 else v + 1 := by
  rw [bump, show BitVec.allOnes 8 = 255 by decide]
  by_cases full : v = 255
  · rw [if_pos full, if_pos full, full]
  · rw [if_neg full, if_neg full]

theorem markLost_append (init : List Report) (x : Report) :
    markLost (init ++ [x]) = init ++ [{ x with lost := true }] := by
  induction init with
  | nil => rfl
  | cons r init ih =>
    have longer : markLost (r :: (init ++ [x])) = r :: markLost (init ++ [x]) := by
      cases init <;> rfl
    rw [List.cons_append, longer, ih, List.cons_append]

theorem acknowledge_head {q : Reports} {r : Report} {rest : List Report} (h : q.stored = r :: rest) :
    q.acknowledge = { q with stored := rest, readIndex := 0 } := by
  rw [Reports.acknowledge, h]

theorem acknowledge_empty {q : Reports} (h : q.stored = []) : q.acknowledge = q := by
  rw [Reports.acknowledge, h]

theorem readReport_empty {s : State} (h : s.reports.stored = []) : readReport s = drive 0 s := by
  have byte : reportByte s.reports = 0 := by rw [reportByte, h]
  have stays : s.reports.advance = s.reports := if_pos (by rw [h]; rfl)
  rw [readReport, byte]
  show { drive 0 s with reports := s.reports.advance } = drive 0 s
  rw [stays]
  rfl

theorem readReport_head {s : State} {r : Report} {rest : List Report} (h : s.reports.stored = r :: rest) :
    readReport s = { drive (r.bytes.getD s.reports.readIndex 0) s with
      reports := { s.reports with readIndex := min 10 (s.reports.readIndex + 1) } } := by
  have byte : reportByte s.reports = r.bytes.getD s.reports.readIndex 0 := by rw [reportByte, h]
  have moves : s.reports.advance = { s.reports with readIndex := min 10 (s.reports.readIndex + 1) } :=
    if_neg (by rw [h]; exact Bool.false_ne_true)
  rw [readReport, byte, ← moves]
  rfl

/-- Settles O14, by whether a report is stored. -/
theorem reportAccess : Obligations.ReportAccess := by
  unfold Obligations.ReportAccess
  intro s port
  have read : exec .reportRead s = .next (readReport s) := congrArg _ (csRead_active readReport port)
  have ack : exec .acknowledge s = .next (ackReport s) := congrArg _ (csWrite_active ackReport port)
  have rewind : exec .reportRewind s = .next (rewindReport s) := congrArg _ (csWrite_active rewindReport port)
  rw [read, ack, rewind]
  refine ⟨fun empty => ?_, fun r rest head => ?_, rfl⟩
  · rw [readReport_empty empty, ackReport, acknowledge_empty empty]
    exact ⟨rfl, rfl⟩
  · rw [readReport_head head, ackReport, acknowledge_head head]
    exact ⟨rfl, rfl⟩

/-! ### The bytes of a record (R42) -/

/-- A value is determined by its bytes. -/
theorem eq_of_bytes_eq {n : Nat} {v w : BitVec n}
    (h : ∀ k, 8 * k < n → v.extractLsb' (8 * k) 8 = w.extractLsb' (8 * k) 8) : v = w := by
  refine BitVec.eq_of_getLsbD_eq fun i hi => ?_
  have byte := congrArg (BitVec.getLsbD · (i % 8)) (h (i / 8) (by omega))
  simpa [Nat.mod_lt, Nat.div_add_mod] using byte

theorem append_inj_both {m n : Nat} {a c : BitVec m} {b d : BitVec n} (h : a ++ b = c ++ d) : a = c ∧ b = d := by
  have left := congrArg (BitVec.extractLsb' n m) h
  have right := congrArg (BitVec.extractLsb' 0 n) h
  rw [BitVec.extractLsb'_append_eq_left, BitVec.extractLsb'_append_eq_left] at left
  rw [BitVec.extractLsb'_append_eq_right, BitVec.extractLsb'_append_eq_right] at right
  exact ⟨left, right⟩

theorem bit_injective : Function.Injective bit := by
  intro x y
  cases x <;> cases y <;> decide

theorem stageCode_injective : Function.Injective stageCode := by
  intro x y
  cases x <;> cases y <;> decide

/-- R51: the cause that a code names. -/
def causeOf (code : Byte) : Option Cause := ((List.range 32).map Cause.ofNat).find? fun c => causeCode c == code

theorem causeOf_causeCode (c : Cause) : causeOf (causeCode c) = some c := by
  cases c <;> rfl

theorem causeCode_injective : Function.Injective causeCode := fun c d h =>
  Option.some.inj ((causeOf_causeCode c).symm.trans ((congrArg causeOf h).trans (causeOf_causeCode d)))

/-- Settles O21: every byte is a code or a concatenation of fields, each of which it determines. -/
theorem reportBytesFaithful : Obligations.ReportBytesFaithful := by
  unfold Obligations.ReportBytesFaithful
  intro r q same
  simp only [Report.bytes, List.cons.injEq, and_true] at same
  obtain ⟨byte0, code, cause, byte3, residual0, residual1, counts, next0, next1, next2⟩ := same
  obtain ⟨head, tag⟩ := append_inj_both byte0
  obtain ⟨unsolicited, stage⟩ := append_inj_both head
  obtain ⟨flags6, recovered⟩ := append_inj_both byte3
  obtain ⟨flags5, warning⟩ := append_inj_both flags6
  obtain ⟨flags4, known⟩ := append_inj_both flags5
  obtain ⟨flags3, lost⟩ := append_inj_both flags4
  obtain ⟨flags2, dataPending⟩ := append_inj_both flags3
  obtain ⟨faultRecorded, part⟩ := append_inj_both flags2
  obtain ⟨retries, discarded⟩ := append_inj_both counts
  have residual : r.residual = q.residual := eq_of_bytes_eq fun k hk => by
    obtain rfl | rfl : k = 0 ∨ k = 1 := by omega
    · exact residual0
    · exact residual1
  have next : r.next = q.next := eq_of_bytes_eq fun k hk => by
    obtain rfl | rfl | rfl : k = 0 ∨ k = 1 ∨ k = 2 := by omega
    · exact next0
    · exact next1
    · exact next2
  cases r
  cases q
  congr
  · exact bit_injective unsolicited
  · exact stageCode_injective stage
  · exact causeCode_injective cause
  · exact bit_injective recovered
  · exact bit_injective warning
  · exact bit_injective known
  · exact bit_injective lost
  · exact bit_injective dataPending
  · exact bit_injective faultRecorded

/-! ### The rank of causes (R52) -/

/-- R52: a cause raised where another stands. -/
theorem raise_over {s : State} {a : Active} {c : CauseAt} (d : Cause) (ha : s.seq.active = some a)
    (hc : a.cause = some c) : raise d s = { s with seq := { s.seq with active := some { a with
      cause := some (if causeRank d < causeRank c.cause then { cause := d, stage := a.stage } else c) } } } := by
  rw [raise_some d ha, hc, outranks]
  by_cases higher : causeRank d < causeRank c.cause
  · simp [higher]
  · simp [higher, ← hc]

/-- Induction over a list from its end (the core library's lists have it from the front only). -/
theorem append_singleton_induction {α : Type} {motive : List α → Prop} (nil : motive [])
    (append_singleton : ∀ l a, motive l → motive (l ++ [a])) (l : List α) : motive l := by
  have reversed (r : List α) : motive r.reverse := by
    induction r with
    | nil => exact nil
    | cons a r ih =>
      rw [List.reverse_cons]
      exact append_singleton _ a ih
  exact l.reverse_reverse ▸ reversed l.reverse

/-- Settles O33, by induction on the causes, the last of which prevails or leaves the one that stands. -/
theorem causePrecedence : Obligations.CausePrecedence := by
  unfold Obligations.CausePrecedence
  intro causes s a active fresh
  induction causes using append_singleton_induction with
  | nil => exact fun h => absurd rfl h
  | append_singleton causes d ih =>
    intro _
    rw [List.foldl_append, List.foldl_cons, List.foldl_nil]
    by_cases first : causes = []
    · refine ⟨[], d, [], by rw [first], nofun, nofun, ?_⟩
      rw [first, List.foldl_nil, raise_some d active, fresh]
      rfl
    · obtain ⟨before, c, after, split, above, below, stands⟩ := ih first
      rw [stands, raise_over d rfl rfl]
      by_cases higher : causeRank d < causeRank c
      · refine ⟨causes, d, [], rfl, fun e he => ?_, nofun, by simp [higher]⟩
        rw [split, List.mem_append, List.mem_cons] at he
        rcases he with he | rfl | he
        · exact Nat.lt_trans higher (above e he)
        · exact higher
        · exact Nat.lt_of_lt_of_le higher (below e he)
      · refine ⟨before, c, after ++ [d], by rw [split]; simp, above, fun e he => ?_, by simp [higher]⟩
        rcases List.mem_append.1 he with he | he
        · exact below e he
        · rw [List.mem_singleton.1 he]
          exact Nat.not_lt.1 higher

end Sys2Proof.Machine

section

open Sys2Proof Sys2Proof.Machine

/-- Settles O22, by whether a place is free. -/
theorem Sys2Proof.pushReport : Obligations.PushReport := by
  unfold Obligations.PushReport
  intro q r
  refine ⟨fun room => ?_, fun init x stored full => ?_⟩
  · simp only [push_room r room, List.isEmpty_iff]
  · rw [push_full r full, stored, markLost_append, bump_byte]

end
end

section
/-! SUPPORT. The report of every kind of reset (R54, R55, R59), and the statement about it. -/

namespace Sys2Proof.Machine

/-- R59: what a reset leaves of the Report Queue and the interrupt. -/
structure Reported (c : Cause) (r : Report) (t : State) : Prop where
  reports : t.reports = { stored := [r], readIndex := 0, overflow := 0, lastCause := c, lastTag := 0 }
  report : r.cause = c ∧ r.lost = false ∧ r.tag = 0 ∧ r.dataPending = false
  enables : t.host.intEnable = 0

/-- R7: the report is pending. -/
theorem Reported.pending {c : Cause} {r : Report} {t : State} (h : Reported c r t) : reportPending t = true := by
  rw [reportPending, h.reports]
  rfl

/-- R9: no interrupt is enabled. -/
theorem Reported.released {c : Cause} {r : Report} {t : State} (h : Reported c r t) : irqActive t = false := by
  simp [irqActive, h.enables]

/-- R118, R144: no bank is readable after a reset. -/
theorem dataPending_afterReset : dataPending .afterReset = false := by decide

/-- R59: the report of a reset of a part that it has cleared, whether or not a sleep entry follows. -/
theorem reported_of_entered {c : Cause} {u t : State} (entered : Entered (resetReport c u) t)
    (banks : u.banks = .afterReset) (enables : u.host.intEnable = 0) : Reported c (baseReport c (emptyReports u)) t := by
  obtain ⟨-, -, -, -, -, reports⟩ := entered.same
  refine ⟨reports, ⟨rfl, rfl, rfl, ?_⟩, ?_⟩
  · show dataPending u.banks = false
    rw [banks, dataPending_afterReset]
  · rw [entered.eq]
    exact enables

theorem powerOnReset_reported (pins : Pins) (s : State) : ∃ r, Reported .powerOn r (powerOnReset pins s) := by
  have por : Fresh (faultBits (porState pins s)) := (porState_fresh pins s).congr rfl rfl rfl rfl rfl rfl
  have imposed := inhibitController_imposed por.still por.request
  have fresh := imposed.fresh por
  have loading : (inhibitController (faultBits (porState pins s))).place.cart ≠ .loading := by
    rw [imposed.place.1]
    show (if pins.cartin then CartState.inserted else .empty) ≠ .loading
    split <;> simp
  have entered := (judgeSources_fresh (resetReport_fresh .powerOn fresh) loading).1
  rw [powerOnReset_eq]
  exact ⟨_, reported_of_entered entered fresh.banks (congrArg HostPort.intEnable fresh.host)⟩

theorem deviceReset_reported (s : State) : ∃ r, Reported .deviceReset r (deviceReset s) := by
  obtain ⟨st, r, started, reseated, fresh, imposed⟩ := deviceResetActs_spec s
  have acted : Fresh (deviceResetActs s) := imposed.fresh (fresh.congr rfl rfl rfl rfl rfl rfl)
  have loading : (deviceResetActs s).place.cart ≠ .loading := by
    rw [imposed.place.1, reseated.cart]
    exact cartAfter_ne_loading _ _
  have entered := (judgeSources_fresh (resetReport_fresh .deviceReset acted) loading).1
  exact ⟨_, reported_of_entered entered acted.banks (congrArg HostPort.intEnable acted.host)⟩

theorem wakeUp_reported (s : State) : ∃ r, Reported .wake r (wakeUp s) := by
  have fresh := (wakeChanges_woken s).fresh
  refine ⟨wakeReport (emptyReports (wakeChanges s)), rfl, ⟨rfl, rfl, rfl, ?_⟩, congrArg HostPort.intEnable fresh.host⟩
  show dataPending (wakeChanges s).banks = false
  rw [fresh.banks, dataPending_afterReset]

/-- R59, R180: a part without orders whose reset's report and sleep sources end a release of RST/. -/
structure Releasable (u : State) : Prop where
  order : u.seq = .afterReset ∧ u.events = []
  framer : u.framer.writer = .idle ∧ u.framer.gate = false
  still : u.motion.moving = false
  cart : u.place.cart ≠ .loading
  banks : u.banks = .afterReset
  enables : u.host.intEnable = 0

theorem Releasable.reported {u : State} (h : Releasable u) : ∃ r, Reported .pinReset r (endRelease u) := by
  obtain ⟨seq, events⟩ := h.order
  obtain ⟨writer, gate⟩ := h.framer
  have entered : Entered (resetReport .pinReset { u with power := { u.power with rstFromSleep := false } })
      (endRelease u) := judgeSources_entered seq events writer gate h.still h.cart
  exact ⟨_, reported_of_entered entered h.banks h.enables⟩

/-- R180: what RST/ held in a part that was awake at the assertion is held through its release. -/
theorem releaseAwake_releasable {s : State} (held : Held s) :
    Releasable (releaseAwake { s with inputs := { s.inputs with rstLow := false } }) := by
  have reseated := reset_reseated { s with inputs := { s.inputs with rstLow := false } }
  unfold releaseAwake
  generalize resetCartridge (loadCartridgeLevels { s with inputs := { s.inputs with rstLow := false } }) = r at reseated
  have eq := reseated.eq
  have still : r.motion.moving = false := by rw [eq]; exact held.still
  have request : r.motion.request = none := by rw [eq]; exact held.request
  have imposed := clearJudged_imposed still request
  have acted := imposed.eq
  generalize clearAction (faultBits r) = u at imposed acted
  refine ⟨?order, ?framer, imposed.still, ?cart, ?banks, ?enables⟩
  case order => rw [acted, eq]; exact ⟨held.seq, held.events⟩
  case framer => rw [acted, eq]; exact ⟨held.writer, held.gate⟩
  case cart => rw [imposed.place.1.trans reseated.cart]; exact cartAfter_ne_loading _ _
  case banks => rw [acted, eq]; exact held.banks
  case enables => rw [acted, eq]; exact held.enables

/-- R178, R180: the changes of the wake leave nothing of what was before the assertion. -/
theorem releaseFromSleep_releasable {s : State} (high : s.inputs.rstLow = false) :
    Releasable (releaseFromSleep s) := by
  obtain ⟨seq, events, writer, gate, still, cart, -⟩ := (releaseFromSleep_released high).rest
  have fresh := (wakeChanges_woken s).fresh
  exact ⟨⟨seq, events⟩, ⟨writer, gate⟩, still, cart, fresh.banks, congrArg HostPort.intEnable fresh.host⟩

theorem releaseRst_reported {s : State} (held : Held s) : ∃ r, Reported .pinReset r (releaseRst s) := by
  rw [releaseRst_eq]
  split
  · exact (releaseFromSleep_releasable rfl).reported
  · exact (releaseAwake_releasable held).reported

/-- R59: the commands that end a reset, each with its cause. -/
theorem resetCause_cases {i : Instr} {c : Cause} {s : State} (h : resetCause s i = some c) :
    (∃ pins, i = .powerOn pins ∧ c = .powerOn) ∨ (i = .deviceReset ∧ portActive s = true ∧ c = .deviceReset) ∨
      (i = .rstRelease ∧ s.inputs.rstLow = true ∧ c = .pinReset) ∨
      (i = .wake ∧ (s.inputs.rstLow = false ∧ s.power.state = .sleep ∧ s.link.sleepReq = false) ∧ c = .wake) := by
  unfold resetCause at h
  split at h
  next pins => exact .inl ⟨pins, rfl, (Option.some.inj h).symm⟩
  next => simp_all
  next => simp_all
  next => simp_all
  next => cases h

theorem exec_reported {i : Instr} {c : Cause} {s : State} (held : HeldInReset s) (reset : resetCause s i = some c) :
    ∃ t r, exec i s = .next t ∧ Reported c r t := by
  rcases resetCause_cases reset with ⟨pins, rfl, rfl⟩ | ⟨rfl, port, rfl⟩ | ⟨rfl, low, rfl⟩ | ⟨rfl, asleep, rfl⟩
  · exact ⟨_, (powerOnReset_reported pins s).imp fun _ reported => ⟨rfl, reported⟩⟩
  · exact ⟨_, (deviceReset_reported s).imp fun _ reported => ⟨exec_deviceReset port, reported⟩⟩
  · have held := (heldInReset_iff s).1 held low
    exact ⟨_, (releaseRst_reported held).imp fun _ reported => ⟨exec_rstRelease low, reported⟩⟩
  · obtain ⟨high, sleep, request⟩ := asleep
    exact ⟨_, (wakeUp_reported _).imp fun _ reported => ⟨exec_wake high sleep request, reported⟩⟩

/-- Settles O59, by the kind of the reset. -/
theorem resetReports : Obligations.ResetReports := by
  unfold Obligations.ResetReports
  intro i c s held reset
  obtain ⟨t, r, runs, reported⟩ := exec_reported held reset
  obtain ⟨cause, lost, tag, data⟩ := reported.report
  refine ⟨t, r, runs, reported.reports, cause, lost, tag, data, reported.pending, reported.released, reported.enables, ?_⟩
  rcases resetCause_cases reset with ⟨pins, rfl, rfl⟩ | ⟨rfl, -, rfl⟩ | ⟨rfl, -, rfl⟩ | ⟨rfl, -, rfl⟩ <;> rfl

end Sys2Proof.Machine
end

section
/-! SUPPORT. Faults of an idle part at rest (R56, R147 to R151), the writes of POKE (R148, R155 to R157, R164, R174), and
the statement about them. -/

namespace Sys2Proof.Machine

/-! ### Fault onset in an idle part (R49, R56) -/

/-- R49, R56: the Report Queue after a FAULT ONSET report for each bit newly recorded. -/
def onsetPushes (new : BitVec 6) (r : Report) (q : Reports) : Reports :=
  [0, 1, 2, 3, 4, 5].foldl (fun q i => if new.getLsbD i then q.push r else q) q

/-- R56: every FAULT ONSET report of one reaction shows the same part. -/
theorem onsetReports_eq (new : BitVec 6) (s : State) :
    onsetReports new s = { s with reports := onsetPushes new (baseReport .faultOnset s) s.reports } := by
  have pushes (bits : List Nat) (q : Reports) :
      bits.foldl (fun t i => if new.getLsbD i then pushUnsolicited .faultOnset t else t) { s with reports := q } =
        { s with reports :=
            bits.foldl (fun q i => if new.getLsbD i then q.push (baseReport .faultOnset s) else q) q } := by
    induction bits generalizing q with
    | nil => rfl
    | cons i bits ih =>
      rw [List.foldl_cons, List.foldl_cons, ← ih]
      congr 1
      split <;> rfl
  exact pushes _ s.reports

theorem onsetPushes_none (r : Report) (q : Reports) : onsetPushes 0#6 r q = q := rfl

/-! ### An idle part at rest (R147 to R151) -/

/-- R27, R77: a part that is awake and idle, its transport at rest with nothing asked of it, the gate off and no fault
present. -/
structure AtRest (s : State) : Prop where
  awake : s.power.state = .active
  high : s.inputs.rstLow = false
  idle : s.seq.active = none ∧ s.seq.queue = []
  events : s.events = []
  rest : s.motion.state = .stopped ∧ s.motion.settling = false ∧ s.motion.request = none
  gate : s.framer.gate = false
  anchored : Anchored s
  sane : s.health.present = 0#6

/-- R5: the port of a part whose RST/ is low is inactive. -/
theorem Ready.high {s : State} (h : Ready s) : s.inputs.rstLow = false := by
  have port := h.port
  simp only [portActive, Bool.and_eq_true, Bool.not_eq_true'] at port
  exact port.1.1

theorem Ready.atRest {s : State} (h : Ready s) (hq : s.motion.request = none) : AtRest s :=
  ⟨h.awake, h.high, ⟨h.idle.1, h.idle.2.1⟩, h.events, ⟨h.rest.1, h.rest.2, hq⟩, h.framer.2.1, h.anchored, h.healthy.1⟩

/-- R147: a part with the faults `present`, all of them recorded. -/
def faulted (present : BitVec 6) (s : State) : State :=
  { s with health := { s.health with present := present, recorded := s.health.recorded ||| present } }

/-- R147 to R151: an idle part at rest with the faults `present`: a motion fault makes its controller INHIBITED. -/
def faultedAtRest (present : BitVec 6) (s : State) : State :=
  { faulted present s with
    motion := if present &&& motionFaults ≠ 0#6 then
        { s.motion with state := .inhibited, waiting := none, settleTimer := 0, dwellTimer := 0 }
      else s.motion
    power := if present &&& motionFaults ≠ 0#6 then { s.power with standbyTimer := 0 } else s.power }

/-- R147, R148: with no fault latched the faults present are the unmasked conditions. -/
theorem presentFor_sane {h : Health} (sane : h.present = 0#6) (c : BitVec 6) : presentFor h c = c &&& ~~~h.mask := by
  have split (c : BitVec 6) : c &&& staticFaults ||| c &&& latchedFaults = c := by
    revert c
    decide
  rw [presentFor, sane, BitVec.zero_or, split]

theorem inhibitController_atRest {s : State} (h : AtRest s) (present : BitVec 6) :
    inhibitController (faulted present s) = faultedAtRest present s := by
  obtain ⟨stopped, settling, request⟩ := h.rest
  have still : s.motion.moving = false := by rw [Motion.moving, stopped]
  by_cases fault : present &&& motionFaults ≠ 0#6
  · have running : ¬ (faulted present s).motion.state = .inhibited := by
      show ¬ s.motion.state = .inhibited
      rw [stopped]
      exact nofun
    have held : hold true (faulted present s) = { faulted present s with motion := { s.motion with
        state := .inhibited, waiting := none, settleTimer := 0, dwellTimer := 0 } } := by
      have place := anchored_place (s := faulted present s) h.anchored s.motion rfl
      rw [hold_rest_eq (s := faulted present s) still]
      show handOver (holdMotion true s.motion) (faulted present s) = _
      rw [holdMotion_rest still request]
      simp only [handOver, List.append_nil, settling, place]
    rw [inhibitController, if_pos (show (faulted present s).health.motionFault = true from bne_iff_ne.2 fault),
      if_neg running, held, faultedAtRest, if_pos fault, if_pos fault]
    have awake : ¬ s.power.state = .standby := by rw [h.awake]; exact nofun
    show ({ faulted present s with motion := _, power := { s.power with
      state := if s.power.state = .standby then PowerState.active else s.power.state, standbyTimer := 0 } } : State) = _
    rw [if_neg awake]
  · have none : ¬ (faulted present s).health.motionFault = true := fun k => fault (bne_iff_ne.1 k)
    have lift : liftInhibit (faulted present s).motion = s.motion := by
      show liftInhibit s.motion = s.motion
      simp [liftInhibit, stopped]
    rw [inhibitController, if_neg none, lift, faultedAtRest, if_neg fault, if_neg fault]
    rfl

theorem newly_recorded (r p : BitVec 6) : (r ||| p) &&& ~~~r = p &&& ~~~r := by
  ext i hi
  simp only [BitVec.getElem_and, BitVec.getElem_or, BitVec.getElem_not]
  cases r[i] <;> simp

/-- R56, R147 to R151: the Health Monitor's reaction in an idle part at rest. -/
theorem judge_atRest {s : State} (h : AtRest s) {present : BitVec 6}
    (hp : conditions s &&& ~~~s.health.mask = present) : judge s = { faultedAtRest present s with
      reports := onsetPushes (present &&& ~~~s.health.recorded) (baseReport .faultOnset (faultedAtRest present s))
        s.reports } := by
  have bits : faultBits s = faulted present s := by
    rw [faultBits, presentFor_sane h.sane, hp]
    rfl
  have new : (faulted present s).health.recorded &&& ~~~s.health.recorded = present &&& ~~~s.health.recorded :=
    newly_recorded _ _
  rw [judge_idle h.idle.1 h.gate h.high, bits, inhibitController_atRest h, new, onsetReports_eq]
  rfl

/-- Log 6: nothing follows from the faults of an idle part. -/
theorem settle_faultedAtRest {s : State} (h : AtRest s) (present : BitVec 6) (q : Reports) :
    settle { faultedAtRest present s with reports := q } = { faultedAtRest present s with reports := q } := by
  have awake : (faultedAtRest present s).power.state = .active := by
    unfold faultedAtRest
    split <;> exact h.awake
  refine settle_steady ⟨h.events, ?_, ?_⟩
  · show (faultedAtRest present s).power.state ≠ .sleepPending
    rw [awake]
    exact nofun
  · show match s.seq.active with | none => s.seq.queue = [] | some a => a.phase ≠ .waitBank ∧ a.phase ≠ .repWait
    rw [h.idle.1]
    exact h.idle.2

/-! ### The commit of a POKE (R155 to R157, R163, R164, R174) -/

theorem exec_poke (f : FrameBits) (s : State) : exec (.poke f) s = .next (linkFrame (frameSent .poke f) f s) := rfl

/-- R163, R167: what a valid POKE alone leaves of an awake part before its commit: no pair is captured. -/
theorem exec_poke_commits {f : FrameBits} {s : State} (alone : Alone f s) (valid : frameValid .poke f = true)
    (awake : s.power.state ≠ .sleep) :
    ∃ l : Link, exec (.poke f) s = .next (commitPoke f.item f.value { s with link := l }) ∧ l.error = false ∧
      l.errorCount = s.link.errorCount ∧ l.sleepReq = s.link.sleepReq ∧ l.tickPair = s.link.tickPair ∧
      l.blockPair = s.link.blockPair := by
  have unread : opReads (byteOp (regByte0 (frameBits .poke f))) = false := by rw [byteOp_frameBits]; rfl
  obtain ⟨l, leaves, -, error, count, request, tick, block⟩ :=
    installPair_answered .poke f s (byteSnapshot_unread s unread) (bytePair_unread s unread)
  have frame := linkFrame_answered alone valid awake
  rw [leaves] at frame
  exact ⟨l, congrArg _ frame, error, count, request, tick, block⟩

/-- R148: FAULT MASK written. -/
def masked (v : BitVec 16) (s : State) : State := { s with health := { s.health with mask := v.extractLsb' 0 6 } }

theorem commitMask_atRest {s : State} (h : AtRest s) (v : BitVec 16) :
    commitMask v s =
      let u := faultedAtRest (conditions s &&& ~~~(v.extractLsb' 0 6)) (masked v s);
      { u with
        reports := onsetPushes (conditions s &&& ~~~(v.extractLsb' 0 6) &&& ~~~s.health.recorded)
          (baseReport .faultOnset u) s.reports } := by
  have rest : AtRest (masked v s) := { h with }
  have reacts : judge (masked v s) = _ := judge_atRest rest rfl
  show settle (judge (masked v s)) = _
  rw [reacts, settle_faultedAtRest rest]
  rfl

/-- R155 to R157: SUPERVISOR CONTROL written in an idle part. -/
theorem commitControl_idle {s : State} (idle : s.seq.active = none) (high : s.inputs.rstLow = false) (v : BitVec 16) :
    commitControl v s =
      let u : State := { s with health := { s.health with control := v.extractLsb' 0 4 } }
      { u with reports := if v.getLsbD 0 = s.health.lockout then s.reports
          else s.reports.push (baseReport (if v.getLsbD 0 then .lockoutSet else .lockoutCleared) u) } := by
  have lockout : ({ s.health with control := v.extractLsb' 0 4 } : Health).lockout = v.getLsbD 0 := by
    simp [Health.lockout]
  unfold commitControl
  simp only [lockout]
  cases set : v.getLsbD 0 <;> cases stood : s.health.lockout
  · rfl
  · simp only [lockoutCleared, idle, high]
    rfl
  · simp only [lockoutSet, idle, high]
    rfl
  · rfl

/-- R164: SLEEP REQUEST written. -/
def requested (v : BitVec 16) (s : State) : State := { s with link := { s.link with sleepReq := v.getLsbD 0 } }

theorem commitSleepRequest_eq (v : BitVec 16) (s : State) : commitSleepRequest v s =
    if v.getLsbD 0 && !s.link.sleepReq then linkSourceSet (requested v s)
    else if !v.getLsbD 0 && s.link.sleepReq then linkSourceClear (requested v s)
    else requested v s := rfl

/-- R174, R177: an idle part enters SLEEP as soon as SLEEP PENDING begins. -/
theorem settle_enterPending {s : State} (idle : s.seq.active = none ∧ s.seq.queue = []) (high : s.inputs.rstLow = false)
    (events : s.events = []) : settle (enterPending s) = enterSleep (enterPending s) := by
  have due : deferredDue (enterPending s) = true := (deferredDue_iff _).2 ⟨rfl, idle.1, high⟩
  refine settle_two ?_ (settleStep_steady ⟨rfl, nofun, rfl⟩)
  rw [settleStep, enterPending_events, events]
  exact if_pos due

/-- R164, R174, R177: SLEEP REQUEST set anew in an idle part puts it to sleep at once. -/
theorem commitSleepRequest_sets {s : State} (h : AtRest s) (halt : s.seq.haltPending = false) {v : BitVec 16}
    (set : v.getLsbD 0 = true) (clear : s.link.sleepReq = false) : commitSleepRequest v s = { requested v s with
      power := { s.power with state := .sleep, standbyTimer := 0, deadlineTimer := 0, lost := 0, lostActive := false }
      seq := { s.seq with staging := [] }
      motion := { s.motion with waiting := none, settleTimer := 0, dwellTimer := 0, seek := .none } } := by
  obtain ⟨stopped, settling, request⟩ := h.rest
  have sources : commitSleepRequest v s = linkSourceSet (requested v s) := by
    rw [commitSleepRequest_eq, if_pos (by rw [set, clear]; rfl)]
  have pends : linkSourceSet (requested v s) = settle (enterPending (requested v s)) := by
    rw [linkSourceSet, if_neg (by simp [requested, h.high]), show (requested v s).power.state = .active from h.awake]
  have sleeps := enterSleep_idle (s := enterPending (requested v s)) h.idle.1 (by simp [requested, stopped])
  have settles := settle_enterPending (s := requested v s) h.idle h.high h.events
  rw [sources, pends, settles, sleeps]
  simp [enterPending, requested, h.idle, halt, h.events, settling, request]

/-- R164, R172: otherwise only the request is written. -/
theorem commitSleepRequest_writes {s : State} (awake : s.power.state = .active) {v : BitVec 16}
    (h : v.getLsbD 0 = false ∨ s.link.sleepReq = true) : commitSleepRequest v s = requested v s := by
  have clears : linkSourceClear (requested v s) = requested v s := by
    rw [linkSourceClear, show (requested v s).power.state = .active from awake]
  have stands : ¬ (v.getLsbD 0 && !s.link.sleepReq) = true := by
    rcases h with h | h <;> simp only [h] <;> simp
  rw [commitSleepRequest_eq, if_neg stands]
  split
  · exact clears
  · rfl

/-- R164: the items that a valid POKE names. -/
theorem writable_items {f : FrameBits} (valid : frameValid .poke f = true) : f.item = 4 ∨ f.item = 5 ∨ f.item = 6 := by
  simp only [frameValid_eq, Bool.and_eq_true, itemAllowed, itemWritable, Bool.or_eq_true, beq_iff_eq, or_assoc] at valid
  exact valid.2

/-- Settles O53, by the item. -/
theorem pokeWrites : Obligations.PokeWrites := by
  unfold Obligations.PokeWrites
  intro f s ready request alone valid
  have rest := ready.atRest request
  obtain ⟨l, runs, error, count, kept, tick, block⟩ := exec_poke_commits alone valid (by rw [rest.awake]; exact nofun)
  have linked : AtRest { s with link := l } := { rest with }
  rcases writable_items valid with item | item | item <;> rw [item] at runs ⊢
  · have commits : commitPoke 4 f.value { s with link := l } = _ := commitMask_atRest linked f.value
    exact ⟨_, runs.trans (congrArg _ commits), error, count, tick, block, fun _ => ⟨kept, rfl⟩, nofun, nofun⟩
  · have commits : commitPoke 5 f.value { s with link := l } = _ := commitControl_idle linked.idle.1 linked.high f.value
    exact ⟨_, runs.trans (congrArg _ commits), error, count, tick, block, nofun, fun _ => ⟨kept, rfl⟩, nofun⟩
  · have commits : commitPoke 6 f.value { s with link := l } = commitSleepRequest f.value { s with link := l } := rfl
    by_cases sleeps : f.value.getLsbD 0 = true ∧ s.link.sleepReq = false
    · obtain ⟨set, clear⟩ := sleeps
      have enters := commitSleepRequest_sets linked ready.idle.2.2 set (kept.trans clear)
      refine ⟨_, runs.trans (congrArg _ (commits.trans enters)), error, count, tick, block, nofun, nofun,
        fun _ => ⟨rfl, fun stands => ?_, fun _ _ => rfl⟩⟩
      rcases stands with unset | stood
      · cases unset.symm.trans set
      · cases stood.symm.trans clear
    · have stands : f.value.getLsbD 0 = false ∨ s.link.sleepReq = true := by
        cases h : f.value.getLsbD 0
        · exact .inl rfl
        · exact .inr (by simpa [h] using sleeps)
      have writes := commitSleepRequest_writes linked.awake (stands.imp_right kept.trans)
      refine ⟨_, runs.trans (congrArg _ (commits.trans writes)), error, count, tick, block, nofun, nofun,
        fun _ => ⟨rfl, fun _ => rfl, fun set clear => absurd ⟨set, clear⟩ sleeps⟩⟩

end Sys2Proof.Machine
end

section
/-! SUPPORT. An order that a cause cuts short ends in the same step (R33, R34, R39, R52, R96, R97, R100, R150): what its
ending leaves, whatever the cause. -/

namespace Sys2Proof.Machine

/-- R52: the cause with which an order ends that a ranked cause cuts short. -/
theorem cut_cause {c : Cause} (ranked : causeRank c < causeRank .success) (a : Active) :
    (endCause (a.cut c)).cause = (if outranks c a.cause then c else (a.cause.map CauseAt.cause).getD .success) ∧
      (endCause (a.cut c)).cause ≠ .success := by
  have failed : c ≠ .success := fun k => by rw [k] at ranked; exact Nat.lt_irrefl _ ranked
  cases hc : a.cause with
  | none => simp [endCause, Active.cut, hc, outranks, failed]
  | some q =>
    by_cases outranked : outranks c (some q) = true
    · simp [endCause, Active.cut, hc, outranked, failed]
    · have higher : q.cause ≠ .success := fun k => outranked (by simpa [outranks, k] using ranked)
      simp [endCause, Active.cut, hc, outranked, higher]

/-- R33, R34, R97, R100: what the ending of an order that the cause `c` cuts short leaves of the part `x`. -/
structure CutEnd (c : Cause) (a : Active) (x t : State) : Prop where
  same : Same x t
  seq : t.seq = { x.seq with queue := [], active := none, haltPending := false }
  report : ∃ r, t.reports = x.reports.push r ∧ r.unsolicited = false ∧ r.tag = a.entry.tag ∧
    r.cause = (if outranks c a.cause then c else (a.cause.map CauseAt.cause).getD .success)
  gate : t.framer.gate = false
  health : t.health = x.health
  power : t.power = x.power
  motion : t.motion = (endRequest x).motion
  cart : t.place.cart = if x.place.cart = .loading then .inserted else x.place.cart
  map : t.place.map = x.place.map
  position : t.place.position = takenPosition (haltFinal a) x

/-- R53, R92: the events of a part in which a hold or an inhibit has acted at most. -/
def HeldEvents (x : State) : Prop := x.events = [] ∨ ∃ t o, x.events = [.stoppedAt t o true]

/-- R53: the order ends once the hold's rest is taken. -/
theorem settle_cutShort_eq {c : Cause} {a : Active} {x : State} (ha : x.seq.active = some a) (events : HeldEvents x) :
    ∃ n, settle (cutShort c x) = settleFor (n + 1) (finish { cutShort c x with events := [] }) := by
  have handed : (cutShort c x).events = x.events ++ [.orderEnds] := by rw [cutShort_eq c ha]
  rcases events with none | ⟨t, o, rest⟩
  · rw [none] at handed
    exact ⟨62, settleFor_event handed 63⟩
  · rw [rest] at handed
    exact ⟨61, (settleFor_event handed 63).trans
      (settleFor_event (s := { cutShort c x with events := [.orderEnds] }) rfl 62)⟩

theorem settle_cutShort {c : Cause} {a : Active} {x : State} (ranked : causeRank c < causeRank .success)
    (sound : Sound x) (ha : x.seq.active = some a) (awake : x.power.state ≠ .sleepPending) (events : HeldEvents x)
    (judged : presentFor x.health (conditions x) = x.health.present) : CutEnd c a x (settle (cutShort c x)) := by
  obtain ⟨cause, failed⟩ := cut_cause ranked a
  obtain ⟨n, settles⟩ := settle_cutShort_eq (c := c) ha events
  have cut := cut_same (dropGate x)
  have framer := cut_framer (dropGate x)
  have inner : Inner x { cutShort c x with events := [] } := (cutShort_inner c x).setEvents
  have form : ({ cutShort c x with events := [] } : State) = { cutCapture (dropGate x) with
      seq := { x.seq with active := some (a.cut c) }, events := [] } := by rw [cutShort_eq c ha]
  rw [form] at settles inner
  generalize hw : ({ cutCapture (dropGate x) with
      seq := { x.seq with active := some (a.cut c) }, events := [] } : State) = w at settles inner
  have active : w.seq.active = some (a.cut c) := by rw [← hw]
  have health : w.health = x.health := by rw [← hw]; exact cut.health
  have place : w.place = x.place := by rw [← hw]; exact cut.place
  have motion : w.motion = x.motion := by rw [← hw]; exact cut.motion
  have power : w.power = x.power := by rw [← hw]; exact cut.power
  have reports : w.reports = x.reports := by rw [← hw]; exact cut.reports
  have gate : w.framer.gate = false ∧ w.framer.capture = none := by
    rw [← hw]; exact ⟨framer.1, framer.2.2⟩
  have stands : presentFor w.health (conditions w) = w.health.present := by
    rw [health, conditions_gateOff inner.same.inputs (by rw [place]) gate.1]
    exact presentFor_gateOff sound.faults judged
  have ends : finish w = preFin w (a.cut c) := finish_failed (inner.sound sound) active failed stands
  have ended : settle (cutShort c x) = { preFin w (a.cut c) with events := [] } := by
    rw [settles, ends, preFin_failed failed]
    exact settleFor_ended rfl rfl (power ▸ awake) gate.2 (endRequest_events (by rw [← hw]))
  have same : Same x { preFin w (a.cut c) with events := [] } :=
    (((preFin_inner w (a.cut c)).setEvents).after inner).same
  have anchored : Anchored w := by
    unfold Anchored
    rw [motion, place]
    exact sound.anchored
  rw [preFin_failed failed] at same ended
  rw [ended]
  refine ⟨same, ?seq, ⟨failedReport w (a.cut c), ?push, rfl, rfl, cause⟩, gate.1, health, power, ?motion, ?cart, ?map, ?position⟩
  case seq => rw [← hw]
  case push => simp only [reports]
  case motion => simp only [endRequest_motion, motion]
  case cart => simp only [place]
  case map => simp only [place]
  case position =>
    have valid : (endRequest w).motion.refValid = x.motion.refValid := (endRequest_kept w).ref.trans (by rw [motion])
    have position : (endRequest w).place.position = x.place.position :=
      (endRequest_position anchored).trans (by rw [place])
    exact (takeFinal_position _ _).trans (takenPosition_congr valid position _)

end Sys2Proof.Machine
end

section
/-! SUPPORT. The changes of CARTIN (R58, R94 to R96, R141; logs 3, 9, 10, 11), and the statement about them. -/

namespace Sys2Proof.Machine

/-! ### A healthy part (R146 to R151) -/

/-- R146 to R148: a part under fewer conditions than a healthy one is healthy. -/
theorem Healthy.fewer {s t : State} (h : Healthy s) (health : t.health = s.health) {kept : BitVec 6}
    (fewer : conditions t = conditions s &&& kept) : Healthy t := by
  refine ⟨health ▸ h.1, ?_⟩
  rw [health, fewer, BitVec.and_assoc, BitVec.and_comm kept, ← BitVec.and_assoc, h.2, BitVec.zero_and]

theorem Healthy.judged {s : State} (h : Healthy s) : presentFor s.health (conditions s) = s.health.present :=
  (presentFor_zero h.1 h.2).trans h.1.symm

theorem Healthy.noMotionFault {s : State} (h : Healthy s) : s.health.motionFault = false := by
  rw [Health.motionFault, h.1]
  rfl

/-- R151: the controller of a sound part without faults is not INHIBITED. -/
theorem Healthy.runs {s : State} (h : Healthy s) (sound : Sound s) : s.motion.state ≠ .inhibited := fun k => by
  have fault := sound.inhibit.1 k
  rw [h.noMotionFault] at fault
  cases fault

/-- R49, R147: in a healthy part the Health Monitor's reaction is the other report of its step. -/
theorem judgeAfter_healthy (first : State → State) {s : State} (h : Healthy s) (runs : s.motion.state ≠ .inhibited)
    (gate : s.framer.gate = false) : judgeAfter first s = first s := by
  have inhibit : InhibitHolds s := ⟨fun k => absurd k runs, fun k => by rw [h.noMotionFault] at k; cases k⟩
  have none (t : State) : onsetReports (s.health.recorded &&& ~~~s.health.recorded) t = t := by
    rw [BitVec.and_not_self, onsetReports_eq]
    rfl
  simp only [judgeAfter, faultBits_healthy h, applyInhibits_known inhibit gate, none, ite_self]

/-! ### The cartridge (R94, R96) -/

/-- R146: without a cartridge there is no TENSION. -/
theorem conditions_loseCartridge (s : State) : conditions (loseCartridge s) = conditions s &&& ~~~tensionBit := by
  have bits (hot write driver loose loaded supply : Bool) :
      (bit hot ++ bit write ++ 0#1 ++ bit driver ++ bit (loose && false) ++ bit supply : BitVec 6) =
        (bit hot ++ bit write ++ 0#1 ++ bit driver ++ bit (loose && loaded) ++ bit supply) &&& ~~~tensionBit := by
    revert hot write driver loose loaded supply
    decide
  exact bits _ _ _ _ _ _

/-- R94: the debounced level of CARTIN. -/
def cartinAt (present : Bool) (s : State) : State :=
  { s with inputs := { s.inputs with cartin := .sampled present } }

theorem exec_cartridgeRemoved_follows {s : State} (awake : s.power.state ≠ .sleep) :
    exec .cartridgeRemoved s = .next (settle (removeCartridge id (cartinAt false s))) := by
  rw [exec_cartridgeRemoved awake, followCartin_eq]
  rfl

theorem exec_cartridgeInserted (bots eots : Bool) {s : State} (awake : s.power.state ≠ .sleep) :
    exec (.cartridgeInserted bots eots) s =
      .next (settle (insertCartridge id (cartinAt true (setMarkers bots eots s)))) := by
  have sampled : reaches .level (setMarkers bots eots s) = true := by simp [reaches, sampling, awake]
  have follows : cartinChange id .level true (setMarkers bots eots s) =
      settle (followCartin true (cartinAt true (setMarkers bots eots s))) := if_pos sampled
  rw [followCartin_eq] at follows
  exact congrArg _ follows

/-! ### A removal with an order active (R52, R53, R96, R141) -/

/-- R96: the part as a removal has held it, before its order ends. -/
def removed (s : State) : State := stilled (loseCartridge (cartinAt false s))

theorem removed_healthy {s : State} (h : Healthy s) : Healthy (removed s) := by
  have lost : Healthy (loseCartridge (cartinAt false s)) :=
    Healthy.fewer (s := cartinAt false s) h rfl (conditions_loseCartridge _)
  have held : Halted (loseCartridge (cartinAt false s)) (removed s) := stilled_halted _
  by_cases moves : (loseCartridge (cartinAt false s)).motion.moving = true
  · have gate : (removed s).framer.gate = false := by
      rw [removed, stilled_moving moves]
      exact (cut_framer _).1
    have inputs : (removed s).inputs = (loseCartridge (cartinAt false s)).inputs := (stilled_inner _).same.inputs
    exact lost.fewer held.health (conditions_gateOff inputs (by rw [held.place]) gate)
  · have rests : removed s = loseCartridge (cartinAt false s) := if_neg moves
    rw [rests]
    exact lost

theorem removed_sound {s : State} (h : Sound s) : Sound (removed s) :=
  ((stilled_inner _).after (loseCartridge_inner _)).sound ((setInputs_act s _).sound h)

/-- R52, R53, R96: in a healthy part the removal alone cuts the order short. -/
theorem removeCartridge_active {s : State} (sound : Sound s) (healthy : Healthy s) {a : Active}
    (ha : s.seq.active = some a) (present : s.place.cart ≠ .empty) :
    removeCartridge id (cartinAt false s) = cutShort .mediumRemoved (removed s) := by
  have lost : Healthy (loseCartridge (cartinAt false s)) :=
    Healthy.fewer (s := cartinAt false s) healthy rfl (conditions_loseCartridge _)
  have judged : inhibitController (faultBits (loseCartridge (cartinAt false s))) = loseCartridge (cartinAt false s) := by
    rw [faultBits_healthy lost, inhibitController_id lost.noMotionFault (healthy.runs sound)]
  have active : (cartinAt false s).seq.active.isSome = true := by
    show s.seq.active.isSome = true
    rw [ha]
    rfl
  rw [removeCartridge, if_neg (by exact present), if_pos active]
  simp only [judged]
  rfl

/-- R52, R53, R96: the ending of an order that a removal cuts short. -/
theorem removal_ends {s : State} {a : Active} (sound : Sound s) (ha : s.seq.active = some a) (events : s.events = [])
    (awake : s.power.state ≠ .sleepPending) (healthy : Healthy s) (present : s.place.cart ≠ .empty) :
    CutEnd .mediumRemoved a (removed s) (settle (removeCartridge id (cartinAt false s))) := by
  have held : Halted (loseCartridge (cartinAt false s)) (removed s) := stilled_halted _
  have active : (removed s).seq.active = some a := by
    rw [removed, stilled_seq]
    exact ha
  have rest : HeldEvents (removed s) := by
    have handed := stilled_events (loseCartridge (cartinAt false s))
    have none : (loseCartridge (cartinAt false s)).events = [] := events
    rw [none, List.nil_append] at handed
    unfold HeldEvents removed
    rw [handed]
    split
    · exact .inr ⟨_, _, rfl⟩
    · exact .inl rfl
  rw [removeCartridge_active sound healthy ha present]
  exact settle_cutShort (by decide) (removed_sound sound) active (held.power ▸ awake) rest (removed_healthy healthy).judged

theorem endRequest_still {s : State} (h : s.motion.moving = false) : (endRequest s).motion.moving = false := by
  rw [endRequest_motion]
  split
  · rfl
  · exact h

/-! ### An idle part (R58, R94, R96) -/

/-- R58, R94: a cartridge inserted where there was none. -/
theorem insertCartridge_idle {s : State} (idle : s.seq.active = none) (healthy : Healthy s)
    (runs : s.motion.state ≠ .inhibited) (gate : s.framer.gate = false) (empty : s.place.cart = .empty) :
    insertCartridge id s =
      pushUnsolicited .cartridgeInserted { s with place := { s.place with cart := .inserted } } := by
  have same : conditions { s with place := { s.place with cart := .inserted } } = conditions s := by
    simp only [conditions, empty]
    rfl
  have well : Healthy { s with place := { s.place with cart := .inserted } } := ⟨healthy.1, by rw [same]; exact healthy.2⟩
  have calm : ¬ ({ s with place := { s.place with cart := .inserted } } : State).seq.active.isSome = true := by
    simp [idle]
  rw [insertCartridge, if_pos empty]
  simp only [if_neg calm, judgeAfter_healthy _ well runs gate, pushBefore_id]

/-- R58, R96: the cartridge of an idle part removed. -/
theorem removeCartridge_idle {s : State} (idle : s.seq.active = none) (healthy : Healthy s)
    (still : s.motion.moving = false) (runs : s.motion.state ≠ .inhibited) (gate : s.framer.gate = false)
    (present : s.place.cart ≠ .empty) :
    removeCartridge id s = pushUnsolicited .cartridgeRemoved (loseCartridge s) := by
  have lost : Healthy (loseCartridge s) := healthy.fewer rfl (conditions_loseCartridge s)
  rw [removeCartridge, if_neg present, if_neg (by simp [idle]), if_neg (by simp [still]),
    judgeAfter_healthy _ lost runs gate, pushBefore_id]

/-- R94: a level of CARTIN that the cartridge state shows already. -/
theorem insertCartridge_present {s : State} (healthy : Healthy s) (runs : s.motion.state ≠ .inhibited)
    (present : s.place.cart ≠ .empty) : insertCartridge id s = s := by
  rw [insertCartridge, if_neg present, judge_healthy healthy runs]

theorem removeCartridge_absent {s : State} (healthy : Healthy s) (runs : s.motion.state ≠ .inhibited)
    (empty : s.place.cart = .empty) : removeCartridge id s = s := by
  rw [removeCartridge, if_pos empty, judge_healthy healthy runs]

/-- Log 6: nothing follows in an idle part that is awake. -/
theorem settle_idle {s : State} (idle : s.seq.active = none ∧ s.seq.queue = []) (awake : s.power.state = .active)
    (events : s.events = []) : settle s = s :=
  settle_steady ⟨events, by rw [awake]; exact nofun, by rw [idle.1]; exact idle.2⟩

/-! ### The statement -/

theorem exec_healthInputChange (line : LevelInput) (how : Change) (v : Bool) (host : Option HostAccess) (s : State) :
    exec (.healthInputChange ⟨line, how, host⟩ v) s = .next (instant host (.input line how v) false s) := rfl

theorem exec_healthInputChange_alone (line : LevelInput) (how : Change) (v : Bool) (s : State) :
    exec (.healthInputChange ⟨line, how, none⟩ v) s = .next (inputAround id how line v s) := by
  rw [exec_healthInputChange, instant_none]
  rfl

/-- Settles O49, by whether an order is active and whether a cartridge is present. -/
theorem cartridgeChange : Obligations.CartridgeChange := by
  unfold Obligations.CartridgeChange
  intro bots eots s
  refine ⟨exec_healthInputChange_alone _ _ _ _, exec_healthInputChange_alone _ _ _ _,
    fun v => exec_healthInputChange_alone _ _ _ _,
    fun how v => accessAtInstant_of_row (fun host t => exec_healthInputChange _ how v host t) s,
    fun a sound ha events awake pending healthy present => ?active, fun ready => ?ready⟩
  case active =>
    have ended := removal_ends sound ha events pending healthy present
    have held : Halted (loseCartridge (cartinAt false s)) (removed s) := stilled_halted _
    have same : Same (loseCartridge (cartinAt false s)) (removed s) := (stilled_inner _).same
    have seq : (removed s).seq = s.seq := stilled_seq _
    have place := held.place
    have ref : (removed s).motion.refValid = false := held.refValid
    have unknown : (removed s).place.position = none := by
      rw [place]
      exact ite_self _
    have kept := endRequest_kept (removed s)
    refine ⟨_, exec_cartridgeRemoved_follows awake, ended.same.inputs.trans same.inputs, ?_, ?_, ?_, ?_, ?_, ?_,
      ended.gate, by rw [ended.seq, seq], ?_, ended.same.host.trans same.host, ended.same.setup.trans same.setup,
      ended.health.trans held.health, ended.same.link.trans same.link, ended.power.trans held.power⟩
    · rw [ended.cart, place]
      rfl
    · rw [ended.map, place]
      rfl
    · exact ended.position.trans (takenPosition_lost ref unknown _)
    · rw [ended.motion, kept.ref, ref]
    · rw [ended.motion]
      exact endRequest_still held.still
    · rw [ended.motion, kept.tick, held.tick]
      rfl
    · obtain ⟨r, pushed, facts⟩ := ended.report
      rw [held.reports] at pushed
      exact ⟨r, pushed, facts⟩
  case ready =>
    have awake : s.power.state ≠ .sleep := by rw [ready.awake]; exact nofun
    have idle : s.seq.active = none ∧ s.seq.queue = [] := ⟨ready.idle.1, ready.idle.2.1⟩
    refine ⟨fun empty => ?empty, fun present => ?present⟩
    case empty =>
      have removes := removeCartridge_absent (s := cartinAt false s) ready.healthy ready.running empty
      have inserts := insertCartridge_idle (s := cartinAt true (setMarkers bots eots s)) ready.idle.1 ready.healthy
        ready.running ready.framer.2.1 empty
      rw [exec_cartridgeRemoved_follows awake, exec_cartridgeInserted bots eots awake, removes, inserts]
      rw [settle_idle (s := cartinAt false s) idle ready.awake ready.events]
      exact ⟨rfl, congrArg _ (settle_idle idle ready.awake ready.events)⟩
    case present =>
      have inserts := insertCartridge_present (s := cartinAt true (setMarkers bots eots s)) ready.healthy ready.running
        present
      have removes := removeCartridge_idle (s := cartinAt false s) ready.idle.1 ready.healthy ready.dormant.still
        ready.running ready.framer.2.1 present
      rw [exec_cartridgeRemoved_follows awake, exec_cartridgeInserted bots eots awake, removes, inserts]
      rw [settle_idle (s := cartinAt true (setMarkers bots eots s)) idle ready.awake ready.events]
      exact ⟨rfl, _, rfl, congrArg _ (settle_idle idle ready.awake ready.events)⟩

end Sys2Proof.Machine
end

section
/-! SUPPORT. The changes of the health inputs and of WPROT (R95, R130, R141, R145 to R151; logs 3, 10, 11), and the
statement about them. -/

namespace Sys2Proof.Machine

/-! ### The conditions of a health input (R145, R146) -/

/-- R145: the debounced level of TEMPW. -/
def tempwAt (hot : Bool) (s : State) : State := { s with inputs := { s.inputs with tempw := .sampled hot } }

/-- R145: the debounced level of DRVFLT/. -/
def drvfltAt (high : Bool) (s : State) : State := { s with inputs := { s.inputs with drvflt := .sampled high } }

theorem conditions_hot (s : State) : conditions (tempwAt true s) = conditions s ||| hotBit := by
  have bits (hot write driver tension supply : Bool) :
      (bit true ++ bit write ++ 0#1 ++ bit driver ++ bit tension ++ bit supply : BitVec 6) =
        (bit hot ++ bit write ++ 0#1 ++ bit driver ++ bit tension ++ bit supply) ||| hotBit := by
    revert hot write driver tension supply
    decide
  exact bits _ _ _ _ _

theorem conditions_driver (s : State) : conditions (drvfltAt false s) = conditions s ||| driverBit := by
  have bits (hot write driver tension supply : Bool) :
      (bit hot ++ bit write ++ 0#1 ++ bit true ++ bit tension ++ bit supply : BitVec 6) =
        (bit hot ++ bit write ++ 0#1 ++ bit driver ++ bit tension ++ bit supply) ||| driverBit := by
    revert hot write driver tension supply
    decide
  exact bits _ _ _ _ _

/-- R146 to R148: one more condition in a healthy part is the fault present, if it is not masked. -/
theorem Healthy.one_more {s t : State} (h : Healthy s) (health : t.health = s.health) {more : BitVec 6}
    (conds : conditions t = conditions s ||| more) : conditions t &&& ~~~t.health.mask = more &&& ~~~s.health.mask := by
  rw [health, conds]
  have split (c : BitVec 6) (masked : c &&& ~~~s.health.mask = 0#6) :
      (c ||| more) &&& ~~~s.health.mask = more &&& ~~~s.health.mask := by
    ext i hi
    have bit := congrArg (fun p : BitVec 6 => p[i]) masked
    simp only [BitVec.getElem_and, BitVec.getElem_or, BitVec.getElem_not, BitVec.getElem_zero] at bit ⊢
    revert bit
    cases (c)[i] <;> cases s.health.mask[i] <;> simp
  exact split _ h.2

theorem hot_unmasked {m : BitVec 6} (h : m &&& hotBit = 0#6) : hotBit &&& ~~~m = hotBit := by
  revert m
  decide

theorem hot_masked {m : BitVec 6} (h : m &&& hotBit ≠ 0#6) : hotBit &&& ~~~m = 0#6 := by
  revert m
  decide

theorem driver_unmasked {m : BitVec 6} (h : m &&& driverBit = 0#6) : driverBit &&& ~~~m = driverBit := by
  revert m
  decide

/-! ### WPROT, and changes that reach no level (R95, log 10) -/

theorem exec_wprot {s : State} (awake : s.power.state ≠ .sleep) (v : Bool) :
    exec (.healthInputChange ⟨.wprot, .level, none⟩ v) s =
      .next { s with inputs := { s.inputs with wprot := .sampled v } } := by
  have reached : reaches .level s = true := by simp [reaches, sampling, awake]
  rw [exec_healthInputChange_alone]
  exact congrArg _ (if_pos reached)

theorem exec_health_pin (input : HealthInput) {how : Change} {s : State} (h : s.power.state = .sleep ∨ how = .pin) (v : Bool) :
    exec (.healthInputChange ⟨.health input, how, none⟩ v) s = .next { s with inputs := healthPin input v s.inputs } := by
  have stays : ¬ reaches how s = true := by
    rcases h with asleep | rfl
    · simp [reaches, sampling, asleep]
    · exact Bool.false_ne_true
  rw [exec_healthInputChange_alone]
  exact congrArg _ (if_neg stays)

/-! ### An idle part (R56, R147 to R151) -/

theorem exec_tempwHigh {s : State} (awake : s.power.state ≠ .sleep) :
    exec (.healthInputChange ⟨.health .tempw, .level, none⟩ true) s = .next (settle (judge (tempwAt true s))) := by
  have reached : reaches .level s = true := by simp [reaches, sampling, awake]
  rw [exec_healthInputChange_alone]
  show Host.Outcome.next (healthChange id .level .tempw true s) = _
  rw [healthChange, if_pos reached, beforeRest_id]
  rfl

/-- R56, R147 to R151: an idle part in which one fault sets in that was not recorded. -/
theorem settle_onset {s : State} (h : AtRest s) {present : BitVec 6} (clean : s.health.recorded = 0#6)
    (conds : conditions s &&& ~~~s.health.mask = present) : settle (judge s) = { faultedAtRest present s with
      reports := onsetPushes present (baseReport .faultOnset (faultedAtRest present s)) s.reports } := by
  have new : present &&& ~~~s.health.recorded = present := by
    rw [clean, BitVec.not_zero, BitVec.and_allOnes]
  rw [judge_atRest h conds, new, settle_faultedAtRest h]

theorem faultedAtRest_hot {s : State} (clean : s.health.recorded = 0#6) : faultedAtRest hotBit s = { s with
    health := { s.health with present := hotBit, recorded := hotBit } } := by
  have moves : ¬ hotBit &&& motionFaults ≠ 0#6 := by decide
  rw [faultedAtRest, if_neg moves, if_neg moves, faulted, clean]
  rfl

theorem faultedAtRest_driver {s : State} (clean : s.health.recorded = 0#6) : faultedAtRest driverBit s = { s with
    health := { s.health with present := driverBit, recorded := driverBit }
    motion := { s.motion with state := .inhibited, waiting := none, settleTimer := 0, dwellTimer := 0 }
    power := { s.power with standbyTimer := 0 } } := by
  have moves : driverBit &&& motionFaults ≠ 0#6 := by decide
  rw [faultedAtRest, if_pos moves, if_pos moves, faulted, clean]
  rfl

/-! ### DRIVER with an order active (R52, R130, R141, R150, R151) -/

/-- R84, R151: what a motion fault makes of a part whose controller runs. -/
structure Struck (v x : State) : Prop where
  seq : x.seq = v.seq
  health : x.health = v.health
  reports : x.reports = v.reports
  awake : v.power.state ≠ .sleepPending → x.power.state ≠ .sleepPending
  state : x.motion.state = .inhibited ∧ x.motion.settling = false
  tick : x.motion.tick = v.motion.tick
  map : x.place.map = v.place.map
  cart : x.place.cart = v.place.cart
  events : HeldEvents x
  moving : v.motion.moving = true → x.motion.rate = 0 ∧ x.motion.refValid = false ∧ x.place.position = none
  gate : v.motion.moving = true → x.framer.gate = false
  rest : v.motion.moving = false → x.motion.refValid = v.motion.refValid ∧ x.place.position = v.place.position ∧
    x.framer = v.framer

theorem hold_reports (inhibit : Bool) (s : State) : (hold inhibit s).reports = s.reports := by
  unfold hold
  split
  · exact (cut_same _).reports
  · rfl

theorem inhibitController_reports (s : State) : (inhibitController s).reports = s.reports := by
  unfold inhibitController
  split
  · split
    · rfl
    · exact hold_reports true s
  · rfl

/-- R84: an inhibit at rest keeps the counter and the reference. -/
theorem holdMotion_kept {m : Motion} (h : m.moving = false) : Kept m (holdMotion true m).motion := by
  rw [holdMotion, if_neg (by simp [h])]
  split <;> exact ⟨rfl, rfl, rfl⟩

theorem inhibitController_struck {v : State} (anchored : Anchored v) (runs : v.motion.state ≠ .inhibited)
    (fault : v.health.motionFault = true) (events : v.events = []) : Struck v (inhibitController v) := by
  have reports := inhibitController_reports v
  cases moves : v.motion.moving with
  | true =>
    have held := inhibitController_inhibited moves fault events
    obtain ⟨state, rate, ref, settling, tick⟩ := held.motion
    exact ⟨held.seq, held.health, reports, held.awake, ⟨state, settling⟩, tick, by rw [held.place], by rw [held.place],
      .inr ⟨_, held.events⟩, fun _ => ⟨rate, ref, by rw [held.place]⟩, fun _ => held.gate,
      fun k => absurd (k.symm.trans moves) Bool.false_ne_true⟩
  | false =>
    have kept := holdMotion_kept moves
    have state := holdMotion_inhibits v.motion
    have settling := (holdMotion_still v.motion state).2
    have place := anchored_place anchored (holdMotion true v.motion).motion kept.ref
    have handed : HeldEvents (handOver (holdMotion true v.motion) v) := by
      unfold HeldEvents
      rw [handOver_events, events, List.nil_append]
      exact holdMotion_told moves
    have form : inhibitController v = { handOver (holdMotion true v.motion) v with power := { v.power with
        state := if v.power.state = .standby then .active else v.power.state, standbyTimer := 0 } } := by
      rw [inhibitController, if_pos fault, if_neg runs, hold_rest_eq moves]
      rfl
    rw [form] at reports ⊢
    refine ⟨rfl, rfl, reports, fun awake => ?_, ⟨state, settling⟩, kept.tick, rfl, rfl, handed,
      fun k => absurd (moves.symm.trans k) Bool.false_ne_true, fun k => absurd (moves.symm.trans k) Bool.false_ne_true,
      fun _ => ⟨kept.ref, congrArg Place.position place, rfl⟩⟩
    · show (if v.power.state = .standby then PowerState.active else v.power.state) ≠ .sleepPending
      split
      · exact nofun
      · exact awake

/-- R147: a judgement of conditions judged already changes nothing. -/
theorem presentFor_again (h : Health) (r c : BitVec 6) :
    presentFor { h with present := presentFor h c, recorded := r } c = presentFor h c := by
  ext i hi
  simp only [presentFor, BitVec.getElem_and, BitVec.getElem_or, BitVec.getElem_not, static_or_latched i hi]
  generalize latchedFaults[i] = latched, (c)[i] = condition, h.mask[i] = masked, h.present[i] = present
  revert latched condition masked present
  decide

/-- R147, R151: a part with the DRIVER condition, as its order is cut short. -/
def driven (s : State) : State := inhibitController (faulted driverBit (drvfltAt false s))

section

variable {s : State} {a : Active} (sound : Sound s) (healthy : Healthy s) (unmasked : s.health.mask &&& driverBit = 0#6)

include healthy unmasked

theorem driver_present :
    presentFor (drvfltAt false s).health (conditions (drvfltAt false s)) = driverBit := by
  rw [presentFor_sane (h := (drvfltAt false s).health) healthy.1, healthy.one_more (t := drvfltAt false s) rfl (conditions_driver s)]
  exact driver_unmasked unmasked

theorem faultBits_driver : faultBits (drvfltAt false s) = faulted driverBit (drvfltAt false s) := by
  rw [faultBits, driver_present healthy unmasked]
  rfl

include sound

theorem driven_core : Core (faulted driverBit (drvfltAt false s)) := by
  rw [← faultBits_driver healthy unmasked]
  exact faultBits_core ((setInputs_act s _).sound sound).core

theorem driven_sound : Sound (driven s) := inhibitController_sound (driven_core sound healthy unmasked)

theorem driven_struck (events : s.events = []) : Struck (faulted driverBit (drvfltAt false s)) (driven s) :=
  inhibitController_struck (driven_core sound healthy unmasked).anchored (healthy.runs sound)
    (bne_iff_ne.2 (by decide : driverBit &&& motionFaults ≠ 0#6)) events

/-- R147: the DRIVER fault stands under the conditions of the part that it has struck. -/
theorem driven_judged (events : s.events = []) :
    presentFor (driven s).health (conditions (driven s)) = (driven s).health.present := by
  have struck := driven_struck sound healthy unmasked events
  have faults := (driven_core sound healthy unmasked).faults
  have inputs : (driven s).inputs = (faulted driverBit (drvfltAt false s)).inputs :=
    (inhibitController_same (faulted driverBit (drvfltAt false s))).inputs
  have again := presentFor_again (drvfltAt false s).health (s.health.recorded ||| driverBit)
    (conditions (drvfltAt false s))
  rw [driver_present healthy unmasked] at again
  rw [struck.health]
  cases moves : (faulted driverBit (drvfltAt false s)).motion.moving with
  | true =>
    rw [conditions_gateOff inputs struck.cart (struck.gate moves)]
    exact presentFor_gateOff faults again
  | false =>
    obtain ⟨-, -, framer⟩ := struck.rest moves
    rw [conditions_congr inputs (congrArg Framer.gate framer) struck.cart]
    exact again

/-- R52, R150: the motion fault cuts the order short. -/
theorem judge_driver (ha : s.seq.active = some a) : judge (drvfltAt false s) = cutShort .fault (driven s) := by
  have runs := healthy.runs sound
  have onset : ((faulted driverBit (drvfltAt false s)).health.motionFault &&
      (faulted driverBit (drvfltAt false s)).motion.state != .inhibited) = true :=
    Bool.and_eq_true_iff.2 ⟨bne_iff_ne.2 (by decide : driverBit &&& motionFaults ≠ 0#6), bne_iff_ne.2 runs⟩
  have serving : (faulted driverBit (drvfltAt false s)).seq.active.isSome = true := congrArg Option.isSome ha
  have active : (driven s).seq.active = some a := by
    obtain ⟨-, seq, -⟩ := inh_health (faulted driverBit (drvfltAt false s))
    exact (congrArg Sequencer.active seq).trans ha
  have gate : (cutShort .fault (driven s)).framer.gate = false := by
    rw [cutShort_eq .fault active]
    exact (cut_framer _).1
  have inhibits : applyInhibits (faulted driverBit (drvfltAt false s)) = cutShort .fault (driven s) := by
    rw [applyInhibits, if_pos onset, if_pos serving]
    exact if_neg (by simp only [driven] at gate; simp [gate])
  have order : ((drvfltAt false s).seq.active.isSome || (drvfltAt false s).inputs.rstLow) = true := by
    rw [show (drvfltAt false s).seq.active = some a from ha]
    rfl
  rw [judge, judgeAfter, faultBits_driver healthy unmasked, inhibits]
  exact if_pos order

theorem driver_ends (ha : s.seq.active = some a) (events : s.events = []) (awake : s.power.state ≠ .sleepPending) :
    CutEnd .fault a (driven s) (settle (judge (drvfltAt false s))) := by
  have struck := driven_struck sound healthy unmasked events
  rw [judge_driver sound healthy unmasked ha]
  exact settle_cutShort (by decide) (driven_sound sound healthy unmasked) 
    ((congrArg Sequencer.active struck.seq).trans ha) (struck.awake awake) struck.events (driven_judged sound healthy unmasked events)

end

/-- R95, R141, R145 to R151: what the DRIVER input leaves of the part and of its active order. -/
theorem exec_driver_active {s : State} {a : Active} (sound : Sound s) (ha : s.seq.active = some a)
    (events : s.events = []) (awake : s.power.state ≠ .sleep) (pending : s.power.state ≠ .sleepPending)
    (healthy : Healthy s) (unmasked : s.health.mask &&& driverBit = 0#6) :
    ∃ t, exec (.healthInputChange ⟨.health .drvflt, .level, none⟩ false) s = .next t ∧
      CutEnd .fault a (driven s) t ∧ t.motion = (driven s).motion := by
  have struck := driven_struck sound healthy unmasked events
  have ended := driver_ends sound healthy unmasked ha events pending
  have rest : endRequest (driven s) = driven s :=
    endRequest_rest (by simp [Motion.waitingAtRest, struck.state])
  exact ⟨_, exec_drvfltLow awake, ended, ended.motion.trans (by rw [rest])⟩

/-- Settles O50, by the input and whether an order is active. -/
theorem healthInput : Obligations.HealthInput := by
  unfold Obligations.HealthInput
  intro s
  refine ⟨fun how line v => accessAtInstant_of_row (fun host t => exec_healthInputChange _ how v host t) s,
    fun a sound ha events awake pending healthy unmasked => ?active, fun v awake => exec_wprot awake v,
    fun how h => exec_health_pin .tempw h true, fun ready request clean => ?ready⟩
  case active =>
    obtain ⟨t, runs, ended, motion⟩ := exec_driver_active sound ha events awake pending healthy unmasked
    have struck := driven_struck sound healthy unmasked events
    have same := (inhibitController_same (faulted driverBit (drvfltAt false s))).trans ended.same
    have health := ended.health.trans struck.health
    refine ⟨t, runs, same.inputs, by rw [health]; rfl, by rw [health]; rfl, by rw [motion, struck.state.1],
      by rw [motion, struck.tick]; rfl, ended.gate, ended.map.trans struck.map, by rw [ended.seq, struck.seq]; rfl, ?_,
      same.host, same.setup, same.link, fun moves => ?_, fun rests => ?_⟩
    · obtain ⟨r, pushed, facts⟩ := ended.report
      exact ⟨r, by rw [pushed, struck.reports]; rfl, facts⟩
    · obtain ⟨rate, ref, position⟩ := struck.moving moves
      rw [motion, ended.position, takenPosition_lost ref position]
      exact ⟨rate, ref, rfl⟩
    · obtain ⟨ref, position, -⟩ := struck.rest rests
      rw [motion, ended.position, takenPosition_congr ref position]
      exact ⟨ref, takenPosition_haltFinal sound.anchored a⟩
  case ready =>
    have awake : s.power.state ≠ .sleep := by rw [ready.awake]; exact nofun
    have rest := ready.atRest request
    have hot : AtRest (tempwAt true s) := { rest with }
    have driver : AtRest (drvfltAt false s) := { rest with }
    have hotConds := ready.healthy.one_more (t := tempwAt true s) rfl (conditions_hot s)
    refine ⟨fun masked => ?_, fun unmasked t ht => ?_, fun unmasked t ht => ?_⟩
    · have well : Healthy (tempwAt true s) := ⟨rest.sane, hotConds.trans (hot_masked masked)⟩
      rw [exec_tempwHigh awake, judge_healthy well ready.running, settle_idle hot.idle hot.awake hot.events]
      rfl
    · have onset := settle_onset hot clean (hotConds.trans (hot_unmasked unmasked))
      rw [exec_tempwHigh awake, onset, faultedAtRest_hot (s := tempwAt true s) clean, ht]
      rfl
    · have present := driver_present ready.healthy unmasked
      rw [presentFor_sane (h := (drvfltAt false s).health) rest.sane] at present
      have onset := settle_onset driver clean present
      rw [exec_drvfltLow awake, ht]
      show Host.Outcome.next (settle (judge (drvfltAt false s))) = _
      rw [onset, faultedAtRest_driver (s := drvfltAt false s) clean]
      rfl

end Sys2Proof.Machine
end

section
/-! SUPPORT. The frames of the Maintenance Link (R46, R159, R160, R163, R168; logs 3, 14): an invalid frame, a frame in
several commands, the level of LDO, a host access and a DEVICE RESET at the instant of a deselect, and the statement about
them. -/

namespace Sys2Proof.Machine

theorem exec_linkRow (op : LinkOp) (f : FrameBits) (s : State) :
    exec (linkRow op f) s = .next (linkFrame (frameSent op f) f s) := by
  cases op <;> rfl

/-! ### The registers of a frame (R159 to R161) -/

/-- R159 to R161: the registers of a frame `w` selected in the part `s` after `e` edges, LCLK left at a level. -/
def frameAfter (w : Sent) (e : Nat) (high : Bool) (s : State) : FrameRegs where
  selected := true
  summary := healthSummary s
  edges := e
  shiftIn := shiftBits w e 0 0#24
  clock := high && decide (0 < e)
  snapshot := if 8 ≤ e then byteSnapshot (regByte0 w.bits) s else 0
  pair := if 8 ≤ e then bytePair (regByte0 w.bits) s else none

theorem clockFrame_eq (w : Sent) (e : Nat) (high : Bool) (s : State) :
    clockFrame w e high (selectFrame s) = onFrame (fun _ => frameAfter w e high s) s := clockFrame_selectFrame w e high s

theorem openFrame_idle {s : State} (idle : s.link.frame.selected = false) (w : Sent) (e : Nat) (high : Bool) :
    openFrame w e high s = clockFrame w e high (selectFrame s) := by
  rw [openFrame, if_neg (by simp [idle])]

theorem openFrame_selected {s : State} (idle : s.link.frame.selected = false) (w : Sent) (e : Nat) (high : Bool) :
    (openFrame w e high s).link.frame.selected = true := by
  rw [openFrame_idle idle, clockFrame_eq]
  rfl

/-- R159, log 14: further edges of a frame are those of the frame opened with all of them. -/
theorem clockFrame_openFrame {s : State} (idle : s.link.frame.selected = false) (w : Sent) {e d : Nat} (more : e ≤ d)
    (high : Bool) : clockFrame w d high (openFrame w e high s) = openFrame w d high s := by
  rw [openFrame_idle idle, openFrame_idle idle, clockFrame_clockFrame w high more]

/-- R159: the first eight output bits are the summary's. -/
theorem ldo_summary (w : Sent) (e : Nat) (high : Bool) (s : State) {n : Nat} (falls : n = if high then e - 1 else e)
    (first : n < 8) : ldo (onFrame (fun _ => frameAfter w e high s) s).link =
      some ((healthSummary s).getLsbD (7 - n)) := by
  have fallen : (frameAfter w e high s).falls = n := by
    rw [falls]
    cases high
    · rfl
    · cases e <;> rfl
  have shifting : e < 24 := by
    rw [falls] at first
    split at first <;> omega
  have bit : (linkResponse (onFrame (fun _ => frameAfter w e high s) s).link).getLsbD (23 - n) =
      (healthSummary s).getLsbD (7 - n) := by
    show (healthSummary s ++ _ ++ _ : BitVec 24).getLsbD (23 - n) = _
    rw [BitVec.getLsbD_append, if_neg (by omega), BitVec.getLsbD_append, if_neg (by omega)]
    congr 1
    omega
  have shows : ldo (onFrame (fun _ => frameAfter w e high s) s).link = some (decide (e < 24) &&
      (linkResponse (onFrame (fun _ => frameAfter w e high s) s).link).getLsbD (23 - (frameAfter w e high s).falls)) := rfl
  rw [shows, fallen, bit, decide_eq_true shifting, Bool.true_and]

/-! ### An invalid frame (R163) -/

/-- R163: a whole invalid frame alone. -/
theorem linkFrame_invalid {op : LinkOp} {f : FrameBits} {s : State} (alone : Alone f s)
    (invalid : frameValid op f = false) : linkFrame (frameSent op f) f s = linkError
      (onFrame (fun _ => { frameAfter (frameSent op f) f.edges f.clock s with selected := false }) s) := by
  rw [linkFrame_alone op f s alone, clockFrame_eq]
  exact if_pos (by rw [invalid]; rfl)

/-- R163: a frame with a wrong number of edges, even parity or an item that its operation may not use is invalid. -/
theorem frameValid_false {op : LinkOp} {f : FrameBits}
    (h : f.edges ≠ 24 ∨ oddOnes (frameBits op f) = false ∨ itemAllowed op f.item = false) : frameValid op f = false := by
  rw [frameValid_eq]
  rcases h with edges | parity | item
  · simp [edges]
  · simp [parity]
  · simp [item]

/-! ### A host access at the deselect (R46, R168; log 3) -/

/-- R159: a deselect without further edges. -/
theorem clockFrame_stands {w : Sent} {e : Nat} {high : Bool} {s : State} (reached : e ≤ s.link.frame.edges) :
    clockFrame w e high s = onFrame (fun r => { r with clock := high && r.clock }) s := by
  have edges : clockEdges w e s = s := by
    have taken : e - s.link.frame.edges = 0 := by omega
    rw [clockEdges, if_neg (by omega), shiftTo, onFrame]
    simp [taken, Nat.max_eq_left reached]
  rw [clockFrame, edges, decide_eq_false (by omega), setClock]
  rfl

/-- R46, R168: a host access that is no immediate order is applied before the frame is judged. -/
theorem deselectFrame_plain {access : HostAccess} (plain : plainAccess access = true) (s : State) :
    deselectFrame (some access) .nothing s =
      let v := onFrame (fun r => { r with selected := false }) s
      judgeFrame (if clearsFaults v then reflag judgeFrame (keptReports access v) (hostAccess access v)
        else hostAccess access v) := by
  rw [deselectFrame, instant_nothing, instantWith_plain .nothing true _ plain, accessAtInstant_commit,
    accessFirst_commit]

/-- R163: an invalid frame alone changes the link's error and frame only. -/
theorem linkRow_invalid {op : LinkOp} {f : FrameBits} {s : State} (alone : Alone f s)
    (h : f.edges ≠ 24 ∨ oddOnes (frameBits op f) = false ∨ itemAllowed op f.item = false) :
    ∃ t, exec (linkRow op f) s = .next t ∧ t = { s with link := t.link } ∧ t.link.error = true ∧
      t.link.errorCount = (if s.link.errorCount = 255 then 255 else s.link.errorCount + 1) ∧
      t.link.tickPair = s.link.tickPair ∧ t.link.blockPair = s.link.blockPair ∧
      t.link.sleepReq = s.link.sleepReq ∧ ldo t.link = none :=
  ⟨_, (exec_linkRow op f s).trans (congrArg Host.Outcome.next (linkFrame_invalid alone (frameValid_false h))), rfl, rfl,
    bump_byte _, rfl, rfl, rfl, rfl⟩

/-! ### A frame in several commands (log 14) -/

theorem continueFrame_selected {s : State} (selected : s.link.frame.selected = true) (w : Sent) (d : Nat) (high : Bool) :
    continueFrame w d high s = clockFrame w d high s :=
  if_pos selected

theorem continueFrame_idle {s : State} (idle : s.link.frame.selected = false) (w : Sent) (d : Nat) (high : Bool) :
    continueFrame w d high s = s :=
  if_neg (by simp [idle])

theorem closeFrame_selected {s : State} (selected : s.link.frame.selected = true) (w : Sent) (f : FrameBits) :
    closeFrame w f s = deselectFrame f.host f.beside (clockFrame w f.edges f.clock s) :=
  if_pos selected

theorem closeFrame_idle {s : State} (idle : s.link.frame.selected = false) (w : Sent) (f : FrameBits) :
    closeFrame w f s = instant f.host f.beside false s :=
  if_neg (by simp [idle])

/-- Log 14: the rest of a frame and its deselect, after a part of its edges, are the frame sent whole. -/
theorem closeFrame_openFrame {s : State} (idle : s.link.frame.selected = false) (w : Sent) (f : FrameBits) {e : Nat}
    (fewer : e ≤ f.edges) : closeFrame w f (openFrame w e f.clock s) =
      closeFrame w f (openFrame w f.edges f.clock s) := by
  rw [closeFrame_selected (openFrame_selected idle w _ _), closeFrame_selected (openFrame_selected idle w _ _),
    clockFrame_openFrame idle w fewer, clockFrame_openFrame idle w (Nat.le_refl _)]

/-- R159, R160, log 14: the select with some of a frame's edges, and what continues it. -/
theorem linkRow_parts {op : LinkOp} {f : FrameBits} {s : State} (alone : Alone f s) {e : Nat} (fewer : e ≤ f.edges) :
    ∃ u, exec (linkRow op { f with part := .opening, edges := e }) s = .next u ∧ u = { s with link := u.link } ∧
      (ldo u.link).isSome = true ∧
      (∀ n, n = (if f.clock then e - 1 else e) → n < 8 → ldo u.link = some ((healthSummary s).getLsbD (7 - n))) ∧
      (∀ d, e ≤ d → exec (linkRow op { f with part := .middle, edges := d }) u =
        exec (linkRow op { f with part := .opening, edges := d }) s) ∧
      exec (linkRow op { f with part := .closing }) u = exec (linkRow op f) s := by
  obtain ⟨part, -, -, idle⟩ := alone
  have opened : openFrame (frameSent op f) e f.clock s =
      onFrame (fun _ => frameAfter (frameSent op f) e f.clock s) s := by
    rw [openFrame_idle idle, clockFrame_eq]
  refine ⟨openFrame (frameSent op f) e f.clock s, exec_linkRow _ _ _, ?_, ?_, ?_, ?_, ?_⟩
  · rw [opened]
    rfl
  · rw [opened]
    rfl
  · intro n falls first
    rw [opened]
    exact ldo_summary _ e f.clock s falls first
  · intro d more
    rw [exec_linkRow, exec_linkRow]
    exact congrArg Host.Outcome.next ((continueFrame_selected (openFrame_selected idle _ _ _) _ d f.clock).trans
      (clockFrame_openFrame idle (frameSent op f) more f.clock))
  · have whole : linkFrame (frameSent op f) f s =
        closeFrame (frameSent op f) f (openFrame (frameSent op f) f.edges f.clock s) := by
      rw [linkFrame, part]
    rw [exec_linkRow, exec_linkRow, whole]
    exact congrArg Host.Outcome.next (closeFrame_openFrame idle (frameSent op f) f fewer)

/-- R159: edges and a deselect without a frame in progress are ignored, and LDO is high impedance. -/
theorem linkRow_idle {op : LinkOp} {f : FrameBits} {s : State} (idle : s.link.frame.selected = false) :
    ldo s.link = none ∧ exec (linkRow op { f with part := .middle }) s = .next s ∧
      exec (linkRow op { f with part := .closing, host := none, beside := .nothing }) s = .next s := by
  refine ⟨if_neg (by simp [idle]), ?_, ?_⟩
  · rw [exec_linkRow]
    exact congrArg Host.Outcome.next (continueFrame_idle idle _ _ _)
  · rw [exec_linkRow]
    exact congrArg Host.Outcome.next (closeFrame_idle idle _ _)

/-- R46, R168, log 3: a host access at the instant of a deselect is applied before the frame is judged. -/
theorem linkRow_hostAccess {op : LinkOp} {f : FrameBits} {s u : State} {access : HostAccess}
    (plain : plainAccess access = true) (selected : s.link.frame.selected = true)
    (stands : f.edges ≤ s.link.frame.edges)
    (applied : u = hostAccess access { s with link := { s.link with
      frame := { s.link.frame with selected := false, clock := f.clock && s.link.frame.clock } } }) :
    exec (linkRow op { f with part := .closing, host := some access, beside := .nothing }) s =
      .next (judgeFrame (if clearsFaults s then reflag judgeFrame (keptReports access s) u else u)) := by
  rw [exec_linkRow, applied]
  refine congrArg Host.Outcome.next ((closeFrame_selected selected _ _).trans ?_)
  show deselectFrame (some access) .nothing (clockFrame _ f.edges f.clock s) = _
  rw [clockFrame_stands stands, deselectFrame_plain plain]
  rfl

/-! ### A POKE of SUPERVISOR CONTROL at the instant of a DEVICE RESET (R168) -/

/-- R155, R163: what the commit of a POKE of SUPERVISOR CONTROL leaves of an awake part with no order active. -/
theorem judgeFrame_control {f : FrameBits} {s : State} (edges : s.link.frame.edges = 24)
    (bits : s.link.frame.shiftIn = frameBits .poke f) (valid : frameValid .poke f = true) (item : f.item = 5)
    (awake : s.power.state ≠ .sleep) (idle : s.seq.active = none) (high : s.inputs.rstLow = false) :
    ∃ l q, judgeFrame s =
        { s with link := l, reports := q, health := { s.health with control := f.value.extractLsb' 0 4 } } ∧
      l.error = false := by
  have reg : regValid s.link.frame.edges (frameBits .poke f) = true := by
    rw [edges, ← valid, frameValid, edges_of_frameValid valid]
  have judged : judgeFrame s = commitControl f.value (installPair (clearLinkError s)) := by
    rw [judgeFrame, bits, byteOp_frameBits, byteItem_frameBits, regValue_frameBits, item]
    rw [if_neg (by rw [reg]; exact nofun), if_neg awake]
    rfl
  have commits := commitControl_idle (s := { s with link := (installPair (clearLinkError s)).link }) idle high f.value
  rw [judged, installPair_onlyLink (clearLinkError s)]
  exact ⟨_, _, commits, installPair_error _⟩

/-- What a DEVICE RESET leaves of the registers that a POKE needs: the link, and a part awake, idle and with RST/ high. -/
theorem deviceResetActs_kept {s : State} (high : s.inputs.rstLow = false) :
    (deviceResetActs s).link = s.link ∧ (deviceResetActs s).health.mask = s.health.mask ∧
      (deviceResetActs s).power.state = .active ∧ (deviceResetActs s).inputs.rstLow = false ∧
      Fresh (deviceResetActs s) ∧ (deviceResetActs s).place.cart ≠ .loading := by
  obtain ⟨st, r, started, reseated, fresh, imposed⟩ := deviceResetActs_spec s
  obtain ⟨-, link, health, -⟩ := imposed.same
  obtain ⟨-, seatedLink, seatedHealth, -⟩ := reseated.same
  obtain ⟨-, startedLink, -⟩ := started.same
  obtain ⟨active, -⟩ := started.power
  have power : r.power.state = .active := by
    rw [reseated.eq]
    exact active
  refine ⟨link.trans (seatedLink.trans startedLink), ?_, ?_, (deviceResetActs_rst s).trans high,
    imposed.fresh (fresh.congr rfl rfl rfl rfl rfl rfl), ?_⟩
  · rw [health]
    obtain ⟨mask, -⟩ := afterDeviceReset_registers r.health (conditions r)
    rw [mask, seatedHealth, started.health]
  · rw [imposed.awake (by rw [power]; exact nofun), power]
  · rw [imposed.place.1, reseated.cart]
    exact cartAfter_ne_loading _ _

/-- R59, R168: the deselect of a POKE of SUPERVISOR CONTROL at the instant of a DEVICE RESET: the reset's report stands
alone, and the POKE has landed. -/
theorem resetAtInstant_control {f : FrameBits} {s : State} (edges : s.link.frame.edges = 24)
    (bits : s.link.frame.shiftIn = frameBits .poke f) (valid : frameValid .poke f = true) (item : f.item = 5)
    (high : s.inputs.rstLow = false) :
    ∃ r, (resetAtInstant .nothing true s).reports.stored = [r] ∧ r.cause = .deviceReset ∧
      (resetAtInstant .nothing true s).health.control = f.value.extractLsb' 0 4 ∧
      (resetAtInstant .nothing true s).health.mask = s.health.mask ∧
      (resetAtInstant .nothing true s).link.error = false := by
  obtain ⟨link, mask, awake, reset, fresh, seated⟩ := deviceResetActs_kept high
  let u : State := resetReportBefore (commitAt true) .deviceReset (deviceResetActs s)
  obtain ⟨l, q, judged, error⟩ := judgeFrame_control (s := u) ((congrArg (·.frame.edges) link).trans edges)
    ((congrArg (·.frame.shiftIn) link).trans bits) valid item (by rw [show u.power.state = .active from awake]; exact nofun)
    (congrArg Sequencer.active fresh.seq) reset
  have lands : resetAtInstant .nothing true s = judgeSources
      { u with link := l, health := { u.health with control := f.value.extractLsb' 0 4 } } := by
    show judgeSources { judgeFrame u with reports := u.reports } = _
    rw [judged]
  obtain ⟨entered, -⟩ := judgeSources_fresh
    (s := { u with link := l, health := { u.health with control := f.value.extractLsb' 0 4 } })
    (fresh.congr rfl rfl rfl rfl rfl rfl) seated
  obtain ⟨-, linked, health, -, -, reports⟩ := entered.same
  rw [lands, linked, health, reports]
  exact ⟨_, rfl, rfl, rfl, mask, error⟩

/-- R168: a POKE of SUPERVISOR CONTROL whose deselect comes with the write of a DEVICE RESET. -/
theorem linkRow_deviceReset {f : FrameBits} {s : State} (active : portActive s = true)
    (idle : s.link.frame.selected = false) (part : f.part = .whole) (host : f.host = some (.write 1 0xEA))
    (beside : f.beside = .nothing) (item : f.item = 5) (valid : frameValid .poke f = true) :
    ∃ t r, exec (linkRow .poke f) s = .next t ∧ t.reports.stored = [r] ∧ r.cause = .deviceReset ∧
      t.health.control = f.value.extractLsb' 0 4 ∧ t.health.mask = s.health.mask ∧ t.link.error = false := by
  let v : State := onFrame (fun _ => { frameAfter (frameSent .poke f) f.edges f.clock s with selected := false }) s
  have runs : linkFrame (frameSent .poke f) f s = resetAtInstant .nothing true v := by
    have opened := openFrame_selected idle (frameSent .poke f) f.edges f.clock
    rw [linkFrame, part]
    show closeFrame _ f _ = _
    rw [closeFrame_selected opened, clockFrame_openFrame idle _ (Nat.le_refl _), openFrame_idle idle, clockFrame_eq, host,
      beside, deselectFrame, instant_nothing]
    exact instantWith_immediate .nothing true (s := v) active rfl
  have high : v.inputs.rstLow = false := by
    simp only [portActive, Bool.and_eq_true, Bool.not_eq_true'] at active
    exact active.1.1
  have edges := edges_of_frameValid valid
  have bits : v.link.frame.shiftIn = frameBits .poke f := by
    show shiftBits (frameSent .poke f) f.edges 0 0#24 = _
    rw [edges, shiftBits_whole]
    rfl
  obtain ⟨r, kept⟩ := resetAtInstant_control (s := v) edges bits valid item high
  exact ⟨_, r, (exec_linkRow .poke f s).trans (congrArg Host.Outcome.next runs), kept⟩

/-- Settles O51, by the part of a frame that the command carries. -/
theorem linkFrames : Obligations.LinkFrames := by
  unfold Obligations.LinkFrames
  intro op f s
  refine ⟨linkRow_invalid, fun alone e fewer => linkRow_parts alone fewer, linkRow_idle,
    fun access u plain selected stands applied => linkRow_hostAccess plain selected stands applied, ?_⟩
  rintro - active idle part host beside rfl item valid
  exact linkRow_deviceReset active idle part host beside item valid

end Sys2Proof.Machine
end
